-- ==== Sys2Proof/Word.lean ====
section
/-! DEFINITION. The word types of HUFFCORE: 32-bit registers (10_state.md R13), bytes of the payload (R53)
and bit strings (00_scope.md R9). -/

namespace Sys2Proof

/-- A register of the window is 32 bits wide (10_state.md R13). -/
abbrev Word := BitVec 32

/-- One payload byte (10_state.md R53). -/
abbrev Byte := BitVec 8

/-- A bit string, first bit at the head of the list (00_scope.md R9). -/
abbrev Bits := List Bool

/-- A symbol: an unsigned value of SYM_W bits (00_scope.md R7), held zero-extended to 32 bits. -/
abbrev Sym := BitVec 32

end Sys2Proof
end

