-- ==== Sys2Proof/Config.lean ====
section
/-! DEFINITION. The implementation parameters of HUFFCORE (00_scope.md R6): data the machine is built with, which no
step changes. -/

namespace Sys2Proof

/-- The open parameters of 00_scope.md R6 and 20_memory.md R59. -/
structure Config where
  /-- SYM_W, the width of one symbol in bits. -/
  symW : Nat
  /-- MAX_LEN, the capacity of IBUF in symbols. -/
  maxLen : Nat
  /-- MAX_SYMS, the capacity of FTAB in distinct symbols. -/
  maxSyms : Nat
  /-- MAX_OUT, the capacity of OBUF in bytes. -/
  maxOut : Nat
  /-- BASE, the bus address of the register window. -/
  base : Nat
  deriving DecidableEq, Repr

/-- FREQ_W, fixed at 32 (00_scope.md R6, R8). -/
def Config.freqW : Nat := 32

/-- The constraints of 00_scope.md R6's table. -/
def Config.wf (c : Config) : Bool :=
  decide (1 ≤ c.symW) && decide (c.symW ≤ 32)
    && decide (1 ≤ c.maxLen) && decide (c.maxLen ≤ 2 ^ 32 - 1)
    && decide (1 ≤ c.maxSyms) && decide (c.maxSyms ≤ min (2 ^ c.symW) (2 ^ 31))
    && decide (2 ≤ c.maxOut) && decide (c.maxOut ≤ 2 ^ 28)
    && c.base % 128 == 0

/-- The reference configuration (00_scope.md R6, 92_eei_decisions.md D34). BASE has no value in the spec; 0 is a DESIGN
CHOICE (log entry 1), and no statement rests on it. -/
def Config.reference : Config := ⟨21, 65536, 256, 65536, 0⟩

end Sys2Proof
end

