-- ==== Sys2Proof/Syntax.lean ====
section
/-! DEFINITION. The instructions of HUFFCORE, one constructor per row of spec/opcode_table.json: the eight command
words (30_encoding.md R79 to R81) and the 64 host bus operations (R78, R80). A read carries no operand, because the
DATA field of a read is ignored (R78). A write carries its DATA word, ignored writes (40_host_access.md R99) too. -/

namespace Sys2Proof

/-- One host operation, named as spec/opcode_table.json names its row. -/
inductive Instr where
  /-- NOP (41_commands.md R104). -/
  | nop
  /-- CLEAR (41_commands.md R105). -/
  | clear
  /-- COUNT (R108). -/
  | count
  /-- BUILD (R111). -/
  | build
  /-- GENTAB (R121). -/
  | gentab
  /-- PACK (R126). -/
  | pack
  /-- RUN (41_commands.md R106). -/
  | run
  /-- ILLEGAL_CW (R81). -/
  | illegalCw (cw : Word)
  /-- RD ID, offset 0x00 (R89). -/
  | rdId
  /-- RD VERSION, offset 0x04 (R89). -/
  | rdVersion
  /-- RD PARAM0, offset 0x08 (R89). -/
  | rdParam0
  /-- RD PARAM1, offset 0x0C (R89). -/
  | rdParam1
  /-- RD PARAM2, offset 0x10 (R89). -/
  | rdParam2
  /-- RD PARAM3, offset 0x14 (R89). -/
  | rdParam3
  /-- RD CTRL, offset 0x18 (R89). -/
  | rdCtrl
  /-- RD CMD, offset 0x1C (R89). -/
  | rdCmd
  /-- RD STATUS, offset 0x20 (R89). -/
  | rdStatus
  /-- RD IN_DATA, offset 0x24 (R89). -/
  | rdInData
  /-- RD IN_LEN, offset 0x28 (R89). -/
  | rdInLen
  /-- RD NSYM, offset 0x2C (R89). -/
  | rdNsym
  /-- RD NODE_COUNT, offset 0x30 (R89). -/
  | rdNodeCount
  /-- RD ROOT_FREQ, offset 0x34 (R89). -/
  | rdRootFreq
  /-- RD BODY_BITS, offset 0x38 (R89). -/
  | rdBodyBits
  /-- RD PAD, offset 0x3C (R89). -/
  | rdPad
  /-- RD OUT_LEN, offset 0x40 (R89). -/
  | rdOutLen
  /-- RD OUT_PTR, offset 0x44 (R89). -/
  | rdOutPtr
  /-- RD OUT_DATA, offset 0x48 (R91). -/
  | rdOutData
  /-- RD TAB_INDEX, offset 0x4C (R89). -/
  | rdTabIndex
  /-- RD TAB_SYM, offset 0x50 (R89). -/
  | rdTabSym
  /-- RD TAB_FREQ, offset 0x54 (R89). -/
  | rdTabFreq
  /-- RD TAB_CLEN, offset 0x58 (R89). -/
  | rdTabClen
  /-- RD TAB_WSEL, offset 0x5C (R89). -/
  | rdTabWsel
  /-- RD TAB_CODEW, offset 0x60 (R89). -/
  | rdTabCodew
  /-- RD NODE_INDEX, offset 0x64 (R89). -/
  | rdNodeIndex
  /-- RD NODE_INFO, offset 0x68 (R89). -/
  | rdNodeInfo
  /-- RD NODE_FREQ, offset 0x6C (R89). -/
  | rdNodeFreq
  /-- RD NODE_LEFT, offset 0x70 (R89). -/
  | rdNodeLeft
  /-- RD NODE_RIGHT, offset 0x74 (R89). -/
  | rdNodeRight
  /-- RD CODE_MAXLEN, offset 0x78 (R89). -/
  | rdCodeMaxlen
  /-- RD RESERVED_7C, offset 0x7C (R89). -/
  | rdReserved7c
  /-- WR ID, offset 0x00 (R99). -/
  | wrId (v : Word)
  /-- WR VERSION, offset 0x04 (R99). -/
  | wrVersion (v : Word)
  /-- WR PARAM0, offset 0x08 (R99). -/
  | wrParam0 (v : Word)
  /-- WR PARAM1, offset 0x0C (R99). -/
  | wrParam1 (v : Word)
  /-- WR PARAM2, offset 0x10 (R99). -/
  | wrParam2 (v : Word)
  /-- WR PARAM3, offset 0x14 (R99). -/
  | wrParam3 (v : Word)
  /-- WR CTRL, offset 0x18 (R92). -/
  | wrCtrl (v : Word)
  /-- WR CMD, offset 0x1C (R93). -/
  | wrCmd (cw : Word)
  /-- WR STATUS, offset 0x20 (R99). -/
  | wrStatus (v : Word)
  /-- WR IN_DATA, offset 0x24 (R94). -/
  | wrInData (v : Word)
  /-- WR IN_LEN, offset 0x28 (R99). -/
  | wrInLen (v : Word)
  /-- WR NSYM, offset 0x2C (R99). -/
  | wrNsym (v : Word)
  /-- WR NODE_COUNT, offset 0x30 (R99). -/
  | wrNodeCount (v : Word)
  /-- WR ROOT_FREQ, offset 0x34 (R99). -/
  | wrRootFreq (v : Word)
  /-- WR BODY_BITS, offset 0x38 (R99). -/
  | wrBodyBits (v : Word)
  /-- WR PAD, offset 0x3C (R99). -/
  | wrPad (v : Word)
  /-- WR OUT_LEN, offset 0x40 (R99). -/
  | wrOutLen (v : Word)
  /-- WR OUT_PTR, offset 0x44 (R95). -/
  | wrOutPtr (v : Word)
  /-- WR OUT_DATA, offset 0x48 (R99). -/
  | wrOutData (v : Word)
  /-- WR TAB_INDEX, offset 0x4C (R96). -/
  | wrTabIndex (v : Word)
  /-- WR TAB_SYM, offset 0x50 (R99). -/
  | wrTabSym (v : Word)
  /-- WR TAB_FREQ, offset 0x54 (R99). -/
  | wrTabFreq (v : Word)
  /-- WR TAB_CLEN, offset 0x58 (R99). -/
  | wrTabClen (v : Word)
  /-- WR TAB_WSEL, offset 0x5C (R97). -/
  | wrTabWsel (v : Word)
  /-- WR TAB_CODEW, offset 0x60 (R99). -/
  | wrTabCodew (v : Word)
  /-- WR NODE_INDEX, offset 0x64 (R98). -/
  | wrNodeIndex (v : Word)
  /-- WR NODE_INFO, offset 0x68 (R99). -/
  | wrNodeInfo (v : Word)
  /-- WR NODE_FREQ, offset 0x6C (R99). -/
  | wrNodeFreq (v : Word)
  /-- WR NODE_LEFT, offset 0x70 (R99). -/
  | wrNodeLeft (v : Word)
  /-- WR NODE_RIGHT, offset 0x74 (R99). -/
  | wrNodeRight (v : Word)
  /-- WR CODE_MAXLEN, offset 0x78 (R99). -/
  | wrCodeMaxlen (v : Word)
  /-- WR RESERVED_7C, offset 0x7C (R99). -/
  | wrReserved7c (v : Word)
  deriving DecidableEq, Repr

end Sys2Proof
end

