-- ==== Sys2Proof/WellFormed.lean ====
section
/-! DEFINITION. Well-formed instructions: the terms that stand for words of spec/opcode_table.json. -/

namespace Sys2Proof

/-- The one check: an illegal command word carries a word that is none of the seven legal ones, which are the numbers 0
to 6 (30_encoding.md R79: RSVD = 0 and OPC ≤ 0x06). Every other constructor stands for a row of the table at every value
of its operand (R78, R80). -/
def Instr.wellFormed : Instr → Bool
  | .illegalCw cw => decide (7 ≤ cw.toNat)
  | .nop | .clear | .count | .build | .gentab | .pack | .run | .rdId | .rdVersion | .rdParam0 | .rdParam1
  | .rdParam2 | .rdParam3 | .rdCtrl | .rdCmd | .rdStatus | .rdInData | .rdInLen | .rdNsym | .rdNodeCount
  | .rdRootFreq | .rdBodyBits | .rdPad | .rdOutLen | .rdOutPtr | .rdOutData | .rdTabIndex | .rdTabSym
  | .rdTabFreq | .rdTabClen | .rdTabWsel | .rdTabCodew | .rdNodeIndex | .rdNodeInfo | .rdNodeFreq
  | .rdNodeLeft | .rdNodeRight | .rdCodeMaxlen | .rdReserved7c | .wrId _ | .wrVersion _ | .wrParam0 _
  | .wrParam1 _ | .wrParam2 _ | .wrParam3 _ | .wrCtrl _ | .wrCmd _ | .wrStatus _ | .wrInData _ | .wrInLen _
  | .wrNsym _ | .wrNodeCount _ | .wrRootFreq _ | .wrBodyBits _ | .wrPad _ | .wrOutLen _ | .wrOutPtr _
  | .wrOutData _ | .wrTabIndex _ | .wrTabSym _ | .wrTabFreq _ | .wrTabClen _ | .wrTabWsel _ | .wrTabCodew _
  | .wrNodeIndex _ | .wrNodeInfo _ | .wrNodeFreq _ | .wrNodeLeft _ | .wrNodeRight _ | .wrCodeMaxlen _
  | .wrReserved7c _ => true

end Sys2Proof
end

