-- ==== Sys2Proof/Decode.lean ====
section
/-! DEFINITION. From the words the host writes to instructions, and back (30_encoding.md). Two formats (R77): the bus
operation word BOW of 40 bits (R78) and the command word CW of 32 bits (R79). -/

namespace Sys2Proof

/-- One word in one of the two formats of 30_encoding.md R77. A CW is the DATA of a BOW that writes CMD. -/
inductive Encoded where
  | bow (w : BitVec 40)
  | cw (w : Word)
  deriving DecidableEq, Repr

/-- CW bits [7:0], the command opcode (30_encoding.md R79). -/
def cwOpcode (cw : Word) : BitVec 8 := cw.extractLsb' 0 8

/-- CW bits [31:8], reserved (30_encoding.md R79). -/
def cwReserved (cw : Word) : BitVec 24 := cw.extractLsb' 8 24

/-- "A CW is legal when RSVD = 0 and OPC ≤ 0x06; otherwise it is illegal" (30_encoding.md R79). -/
def legalCw (cw : Word) : Bool := cwReserved cw == 0 && decide ((cwOpcode cw).toNat ≤ 0x06)

/-- Why a word denotes no instruction of the table (log entry 9). -/
inductive DecodeError where
  /-- A BOW with OFF[1:0] ≠ 0: a misaligned access (30_encoding.md R78). -/
  | misaligned (write : Bool) (off : BitVec 7)
  deriving DecidableEq, Repr

/-- BOW bit [39]: 1 for a write (30_encoding.md R78). -/
def bowWrite (w : BitVec 40) : Bool := w.getLsbD 39

/-- BOW bits [38:32]: the byte offset in the window (30_encoding.md R78). -/
def bowOffset (w : BitVec 40) : BitVec 7 := w.extractLsb' 32 7

/-- BOW bits [31:0]: the data written (30_encoding.md R78). -/
def bowData (w : BitVec 40) : Word := w.extractLsb' 0 32

/-- The BOW with these fields: top byte (W << 7) | OFF (30_encoding.md R78, R88). -/
def bowWord (write : Bool) (off : BitVec 7) (data : Word) : BitVec 40 := BitVec.ofBool write ++ off ++ data

/-- The read of each aligned offset (30_encoding.md R80, W = 0). -/
def readForm : Nat → Option Instr
  | 0x00 => some .rdId
  | 0x04 => some .rdVersion
  | 0x08 => some .rdParam0
  | 0x0C => some .rdParam1
  | 0x10 => some .rdParam2
  | 0x14 => some .rdParam3
  | 0x18 => some .rdCtrl
  | 0x1C => some .rdCmd
  | 0x20 => some .rdStatus
  | 0x24 => some .rdInData
  | 0x28 => some .rdInLen
  | 0x2C => some .rdNsym
  | 0x30 => some .rdNodeCount
  | 0x34 => some .rdRootFreq
  | 0x38 => some .rdBodyBits
  | 0x3C => some .rdPad
  | 0x40 => some .rdOutLen
  | 0x44 => some .rdOutPtr
  | 0x48 => some .rdOutData
  | 0x4C => some .rdTabIndex
  | 0x50 => some .rdTabSym
  | 0x54 => some .rdTabFreq
  | 0x58 => some .rdTabClen
  | 0x5C => some .rdTabWsel
  | 0x60 => some .rdTabCodew
  | 0x64 => some .rdNodeIndex
  | 0x68 => some .rdNodeInfo
  | 0x6C => some .rdNodeFreq
  | 0x70 => some .rdNodeLeft
  | 0x74 => some .rdNodeRight
  | 0x78 => some .rdCodeMaxlen
  | 0x7C => some .rdReserved7c
  | _ => none

/-- The write of each aligned offset (30_encoding.md R80, W = 1). -/
def writeForm (v : Word) : Nat → Option Instr
  | 0x00 => some (.wrId v)
  | 0x04 => some (.wrVersion v)
  | 0x08 => some (.wrParam0 v)
  | 0x0C => some (.wrParam1 v)
  | 0x10 => some (.wrParam2 v)
  | 0x14 => some (.wrParam3 v)
  | 0x18 => some (.wrCtrl v)
  | 0x1C => some (.wrCmd v)
  | 0x20 => some (.wrStatus v)
  | 0x24 => some (.wrInData v)
  | 0x28 => some (.wrInLen v)
  | 0x2C => some (.wrNsym v)
  | 0x30 => some (.wrNodeCount v)
  | 0x34 => some (.wrRootFreq v)
  | 0x38 => some (.wrBodyBits v)
  | 0x3C => some (.wrPad v)
  | 0x40 => some (.wrOutLen v)
  | 0x44 => some (.wrOutPtr v)
  | 0x48 => some (.wrOutData v)
  | 0x4C => some (.wrTabIndex v)
  | 0x50 => some (.wrTabSym v)
  | 0x54 => some (.wrTabFreq v)
  | 0x58 => some (.wrTabClen v)
  | 0x5C => some (.wrTabWsel v)
  | 0x60 => some (.wrTabCodew v)
  | 0x64 => some (.wrNodeIndex v)
  | 0x68 => some (.wrNodeInfo v)
  | 0x6C => some (.wrNodeFreq v)
  | 0x70 => some (.wrNodeLeft v)
  | 0x74 => some (.wrNodeRight v)
  | 0x78 => some (.wrCodeMaxlen v)
  | 0x7C => some (.wrReserved7c v)
  | _ => none

/-- The instruction a BOW denotes (30_encoding.md R78, R80). A misaligned offset denotes none. -/
def decodeBow (w : BitVec 40) : Except DecodeError Instr :=
  match (if bowWrite w then writeForm (bowData w) (bowOffset w).toNat else readForm (bowOffset w).toNat) with
  | some i => .ok i
  | none => .error (.misaligned (bowWrite w) (bowOffset w))

/-- The instruction a CW denotes: one of the seven exact words, or an illegal command word (30_encoding.md R80, R81). -/
def decodeCw (cw : Word) : Instr :=
  if legalCw cw then
    match (cwOpcode cw).toNat with
    | 0x00 => .nop
    | 0x01 => .clear
    | 0x02 => .count
    | 0x03 => .build
    | 0x04 => .gentab
    | 0x05 => .pack
    | 0x06 => .run
    | _ => .illegalCw cw
  else .illegalCw cw

/-- The instruction a word denotes, in either format (30_encoding.md R77). -/
def decode : Encoded → Except DecodeError Instr
  | .bow w => decodeBow w
  | .cw w => .ok (decodeCw w)

/-- The word the opcode table's `nbits` bits `w` stand for: a row of up to 32 bits is a CW, a longer one a BOW
(log entry 7). -/
def tableItem (nbits w : Nat) : Encoded :=
  if nbits ≤ 32 then .cw (BitVec.ofNat 32 (w % 2 ^ nbits)) else .bow (BitVec.ofNat 40 (w % 2 ^ nbits))

/-- The decoder on a word of the opcode table, bit 0 the least significant (30_encoding.md R78, R79). No format is
longer than 40 bits (R77). -/
def decodeTableWord (nbits w : Nat) : Option Instr :=
  if nbits ≤ 40 then (decode (tableItem nbits w)).toOption else none

/-- The BOW of a read; its DATA is written as 0 (30_encoding.md R78). -/
def encodeRead (off : BitVec 7) : Encoded := .bow (bowWord false off 0)

/-- The BOW of a write (30_encoding.md R78). -/
def encodeWrite (off : BitVec 7) (v : Word) : Encoded := .bow (bowWord true off v)

/-- The word of an instruction, from 30_encoding.md R78 to R80. -/
def encode : Instr → Encoded
  | .nop => .cw 0x00000000#32
  | .clear => .cw 0x00000001#32
  | .count => .cw 0x00000002#32
  | .build => .cw 0x00000003#32
  | .gentab => .cw 0x00000004#32
  | .pack => .cw 0x00000005#32
  | .run => .cw 0x00000006#32
  | .illegalCw cw => .cw cw
  | .rdId => encodeRead 0x00#7
  | .rdVersion => encodeRead 0x04#7
  | .rdParam0 => encodeRead 0x08#7
  | .rdParam1 => encodeRead 0x0C#7
  | .rdParam2 => encodeRead 0x10#7
  | .rdParam3 => encodeRead 0x14#7
  | .rdCtrl => encodeRead 0x18#7
  | .rdCmd => encodeRead 0x1C#7
  | .rdStatus => encodeRead 0x20#7
  | .rdInData => encodeRead 0x24#7
  | .rdInLen => encodeRead 0x28#7
  | .rdNsym => encodeRead 0x2C#7
  | .rdNodeCount => encodeRead 0x30#7
  | .rdRootFreq => encodeRead 0x34#7
  | .rdBodyBits => encodeRead 0x38#7
  | .rdPad => encodeRead 0x3C#7
  | .rdOutLen => encodeRead 0x40#7
  | .rdOutPtr => encodeRead 0x44#7
  | .rdOutData => encodeRead 0x48#7
  | .rdTabIndex => encodeRead 0x4C#7
  | .rdTabSym => encodeRead 0x50#7
  | .rdTabFreq => encodeRead 0x54#7
  | .rdTabClen => encodeRead 0x58#7
  | .rdTabWsel => encodeRead 0x5C#7
  | .rdTabCodew => encodeRead 0x60#7
  | .rdNodeIndex => encodeRead 0x64#7
  | .rdNodeInfo => encodeRead 0x68#7
  | .rdNodeFreq => encodeRead 0x6C#7
  | .rdNodeLeft => encodeRead 0x70#7
  | .rdNodeRight => encodeRead 0x74#7
  | .rdCodeMaxlen => encodeRead 0x78#7
  | .rdReserved7c => encodeRead 0x7C#7
  | .wrId v => encodeWrite 0x00#7 v
  | .wrVersion v => encodeWrite 0x04#7 v
  | .wrParam0 v => encodeWrite 0x08#7 v
  | .wrParam1 v => encodeWrite 0x0C#7 v
  | .wrParam2 v => encodeWrite 0x10#7 v
  | .wrParam3 v => encodeWrite 0x14#7 v
  | .wrCtrl v => encodeWrite 0x18#7 v
  | .wrCmd v => encodeWrite 0x1C#7 v
  | .wrStatus v => encodeWrite 0x20#7 v
  | .wrInData v => encodeWrite 0x24#7 v
  | .wrInLen v => encodeWrite 0x28#7 v
  | .wrNsym v => encodeWrite 0x2C#7 v
  | .wrNodeCount v => encodeWrite 0x30#7 v
  | .wrRootFreq v => encodeWrite 0x34#7 v
  | .wrBodyBits v => encodeWrite 0x38#7 v
  | .wrPad v => encodeWrite 0x3C#7 v
  | .wrOutLen v => encodeWrite 0x40#7 v
  | .wrOutPtr v => encodeWrite 0x44#7 v
  | .wrOutData v => encodeWrite 0x48#7 v
  | .wrTabIndex v => encodeWrite 0x4C#7 v
  | .wrTabSym v => encodeWrite 0x50#7 v
  | .wrTabFreq v => encodeWrite 0x54#7 v
  | .wrTabClen v => encodeWrite 0x58#7 v
  | .wrTabWsel v => encodeWrite 0x5C#7 v
  | .wrTabCodew v => encodeWrite 0x60#7 v
  | .wrNodeIndex v => encodeWrite 0x64#7 v
  | .wrNodeInfo v => encodeWrite 0x68#7 v
  | .wrNodeFreq v => encodeWrite 0x6C#7 v
  | .wrNodeLeft v => encodeWrite 0x70#7 v
  | .wrNodeRight v => encodeWrite 0x74#7 v
  | .wrCodeMaxlen v => encodeWrite 0x78#7 v
  | .wrReserved7c v => encodeWrite 0x7C#7 v

end Sys2Proof
end

