-- ==== Sys2Proof/Machine/State.lean ====
section
/-! DEFINITION. The state of HUFFCORE (10_state.md), as plain data. Registers the host sees as words are bit vectors,
the internal memories are lists of (index, entry) pairs, and what the agents do next is the list `inbox`. -/

namespace Sys2Proof.Machine

/-- The operations the core performs (10_state.md R54). -/
inductive Operation where
  | count | build | gentab | pack | run
  deriving DecidableEq, Repr

/-- STATUS.PHASE (10_state.md R24). The values 5 and 6 "are not produced by any rule" and have no name here. -/
inductive Phase where
  | idle | counted | built | tabled | packed | error
  deriving DecidableEq, Repr

/-- The error causes (60_exceptions.md R135). -/
inductive Err where
  | emptyAlphabet | unknownSymbol | misalignedBitstream | sequence | inputOverflow | symbolRange
  | capacityExceeded | outputOverflow | illegalCommand
  deriving DecidableEq, Repr

/-- An entry of FTAB (10_state.md R50). -/
structure FreqEntry where
  sym : Sym
  freq : Word
  deriving DecidableEq, Repr, Inhabited

/-- An entry of NODE (10_state.md R51). -/
inductive Node where
  | leaf (freq : Word)
  | internal (freq : Word) (left right : Nat)
  deriving DecidableEq, Repr, Inhabited

/-- An internal memory: (index, entry) pairs, indices strictly rising, no entry equal to what an unlisted index reads as
(`Memory.wf`). -/
abbrev Memory (α : Type) := List (Nat × α)

/-- One access as a platform bus presents it: an address, and the bytes of a write in lane order or the width of a read
(20_memory.md R59, R61, R63). -/
inductive BusAccess where
  | read (addr size : Nat)
  | write (addr : Nat) (bytes : List Byte)
  deriving DecidableEq, Repr

/-- What happens next: a host access, given as a word (30_encoding.md R77) or as the bus presents it, a turn of the core
(41_commands.md R103), or the reset input (70_reset_and_hazards.md R157). -/
inductive Event where
  | host (e : Encoded)
  | bus (a : BusAccess)
  | coreTurn
  | hardReset
  deriving DecidableEq, Repr

/-- The state of the machine. STATUS.BUSY and STATUS.IRQ are computed (`State.busy`, `State.irq`, log entry 5). -/
structure State where
  /-- The parameters, read in PARAM0 to PARAM3 (10_state.md R17 to R20; log entry 1). -/
  cfg : Config
  /-- CTRL.IE (10_state.md R21). -/
  ie : Bool
  /-- CTRL.PAD_MODE (10_state.md R21). -/
  padMode : Bool
  /-- STATUS.DONE (10_state.md R23). -/
  done : Bool
  /-- STATUS.BUSYERR (10_state.md R23). -/
  busyErr : Bool
  /-- STATUS.PHASE (10_state.md R24). -/
  phase : Phase
  /-- STATUS.ERR, `none` for the code 0 (10_state.md R25). -/
  err : Option Err
  /-- PENDING (10_state.md R54); STATUS.BUSY is 1 exactly when it is not none. -/
  pending : Option Operation
  /-- IN_LEN (10_state.md R27). -/
  inLen : Word
  /-- NSYM (10_state.md R28). -/
  nsym : Word
  /-- NODE_COUNT (10_state.md R29). -/
  nodeCount : Word
  /-- ROOT_FREQ (10_state.md R30). -/
  rootFreq : Word
  /-- BODY_BITS (10_state.md R31). -/
  bodyBits : Word
  /-- PAD, bits [3:0] (10_state.md R32). -/
  pad : BitVec 4
  /-- OUT_LEN (10_state.md R33). -/
  outLen : Word
  /-- OUT_PTR (10_state.md R34). -/
  outPtr : Word
  /-- TAB_INDEX (10_state.md R36). -/
  tabIndex : Word
  /-- TAB_WSEL (10_state.md R40). -/
  tabWsel : Word
  /-- NODE_INDEX (10_state.md R42). -/
  nodeIndex : Word
  /-- CODE_MAXLEN (10_state.md R47). -/
  codeMaxlen : Word
  /-- IBUF (10_state.md R49). -/
  ibuf : Memory Sym
  /-- FTAB (10_state.md R50). -/
  ftab : Memory FreqEntry
  /-- NODE (10_state.md R51). -/
  node : Memory Node
  /-- CTAB (10_state.md R52). -/
  ctab : Memory Bits
  /-- OBUF (10_state.md R53). -/
  obuf : List Host.Cell
  /-- The model's own: the value the most recent host read returned (log entry 3). -/
  rdata : Word
  /-- The model's own: the events still to come, in order (log entry 4). -/
  inbox : List Event
  deriving DecidableEq, Repr

/-- The machine right after hardware reset (10_state.md R58). The parameters are the reference configuration (log
entry 1); the memories list nothing (log entry 2). -/
def State.reset : State where
  cfg := Config.reference
  ie := false
  padMode := false
  done := false
  busyErr := false
  phase := .idle
  err := none
  pending := none
  inLen := 0
  nsym := 0
  nodeCount := 0
  rootFreq := 0
  bodyBits := 0
  pad := 0
  outLen := 0
  outPtr := 0
  tabIndex := 0
  tabWsel := 0
  nodeIndex := 0
  codeMaxlen := 0
  ibuf := []
  ftab := []
  node := []
  ctab := []
  obuf := []
  rdata := 0
  inbox := []

/-- Faults. HUFFCORE has none: "no bus error is signalled" (20_memory.md R61), and every error is a state the machine goes
on from (60_exceptions.md R145). So no step raises one, which is exact, neither safe nor unsafe. -/
inductive Fault where
  deriving DecidableEq, Repr

/-- Refusals. -/
inductive Refusal where
  /-- Raised by an arm of `exec` whose instruction has no meaning yet. Safe: no claim about a next state holds of it. No
  arm of this model raises it. -/
  | notModelled (mnemonic : String)
  deriving DecidableEq, Repr

end Sys2Proof.Machine
end

