-- ==== Sys2Proof/Machine/Ops.lean ====
section
/-! DEFINITION. The named operations over the memories and registers: reading and writing an entry, entering the error
state and leaving it, answering a read, and the busy rules every host access goes through. -/

namespace Sys2Proof.Machine

/-! ### The internal memories (10_state.md R49 to R53) -/

/-- What an index that no entry lists reads as: 0 for a symbol or a byte, frequency 0, `Leaf(0)`, the empty bit string.
DESIGN CHOICE (log entry 2): the spec leaves these contents unspecified and unobservable (10_state.md R58). -/
def Memory.unlisted {α : Type} [Inhabited α] : α := default

/-- The entry at index `i`. -/
def Memory.read {α : Type} [Inhabited α] : Memory α → Nat → α
  | [], _ => Memory.unlisted
  | (j, v) :: m, i => if j = i then v else Memory.read m i

/-- The memory with `v` at index `i`, in canonical form. -/
def Memory.write {α : Type} [Inhabited α] [DecidableEq α] : Memory α → Nat → α → Memory α
  | [], i, v => if v = Memory.unlisted then [] else [(i, v)]
  | (j, u) :: m, i, v =>
    if i < j then (if v = Memory.unlisted then (j, u) :: m else (i, v) :: (j, u) :: m)
    else if i = j then (if v = Memory.unlisted then m else (i, v) :: m)
    else (j, u) :: Memory.write m i v

/-- The memory with the entries `vs` at the indices `k`, `k + 1`, … -/
def Memory.fill {α : Type} [Inhabited α] [DecidableEq α] : Memory α → Nat → List α → Memory α
  | m, _, [] => m
  | m, k, v :: vs => Memory.fill (Memory.write m k v) (k + 1) vs

/-- The first `n` entries, in index order. -/
def Memory.firstEntries {α : Type} [Inhabited α] (m : Memory α) (n : Nat) : List α :=
  (List.range n).map (Memory.read m)

/-- No index at or below `k`, indices strictly rising, no entry that an unlisted index reads as. -/
def Memory.wfFrom {α : Type} [Inhabited α] [DecidableEq α] : Option Nat → Memory α → Bool
  | _, [] => true
  | k, (i, v) :: m => (match k with | none => true | some j => decide (j < i)) && v != Memory.unlisted
      && Memory.wfFrom (some i) m

/-- The canonical form of a memory: equal memories are equal lists. -/
def Memory.wf {α : Type} [Inhabited α] [DecidableEq α] (m : Memory α) : Bool := Memory.wfFrom none m

/-- IBUF[0 .. IN_LEN − 1], the input in push order (10_state.md R49). -/
def State.input (s : State) : List Sym := Memory.firstEntries s.ibuf s.inLen.toNat

/-- FTAB[0 .. NSYM − 1] (10_state.md R50). -/
def State.table (s : State) : List FreqEntry := Memory.firstEntries s.ftab s.nsym.toNat

/-- NODE[0 .. NODE_COUNT − 1] (10_state.md R51). -/
def State.nodes (s : State) : List Node := Memory.firstEntries s.node s.nodeCount.toNat

/-- CTAB[0 .. NSYM − 1] (10_state.md R52). -/
def State.codes (s : State) : List Bits := Memory.firstEntries s.ctab s.nsym.toNat

/-- OBUF[0 .. OUT_LEN − 1], the payload (10_state.md R53). -/
def State.payload (s : State) : List Byte := Memory.firstEntries s.obuf s.outLen.toNat

/-! ### Status -/

/-- STATUS.BUSY: "PENDING ≠ none exactly when STATUS.BUSY = 1" (10_state.md R54; log entry 5). -/
def State.busy (s : State) : Bool := s.pending.isSome

/-- The PHASE an operation command requires (41_commands.md R102). -/
def Operation.need : Operation → Phase
  | .count => .idle
  | .build => .counted
  | .gentab => .built
  | .pack => .tabled
  | .run => .idle

/-- The PHASE the success of an operation leaves (41_commands.md R102). -/
def Operation.next : Operation → Phase
  | .count => .counted
  | .build => .built
  | .gentab => .tabled
  | .pack => .packed
  | .run => .packed

/-- BUSYERR is set and nothing else changes (40_host_access.md R100, 60_exceptions.md R148). -/
def State.markBusyErr (s : State) : State := { s with busyErr := true }

/-- The value a host read returns (40_host_access.md R89, "return"; log entry 3). -/
def State.answer (v : Word) (s : State) : State := { s with rdata := v }

/-! ### The error state: entry and exit -/

/-- Error entry (60_exceptions.md R145): four writes, no vector, no saved context, no mode change. -/
def State.enterError (e : Err) (s : State) : State :=
  { s with phase := .error, err := some e, done := true, outLen := 0 }

/-- CLEAR (41_commands.md R105): with hardware reset the only way out of PHASE ERROR (60_exceptions.md R147). CTRL is
unchanged and the memories keep their contents. -/
def State.clearRun (s : State) : State :=
  { s with
    pending := none
    done := false
    busyErr := false
    phase := .idle
    err := none
    inLen := 0
    nsym := 0
    nodeCount := 0
    rootFreq := 0
    bodyBits := 0
    pad := 0
    outLen := 0
    codeMaxlen := 0
    outPtr := 0
    tabIndex := 0
    tabWsel := 0
    nodeIndex := 0 }

/-- Hardware reset (70_reset_and_hazards.md R157): every piece of the block's state at its reset value. The parameters
are hardwired (10_state.md R15 to R20); the events to come and the last value read are not the block's. The memories
list nothing again (log entry 2). -/
def State.hardwareReset (s : State) : State :=
  { State.reset with cfg := s.cfg, rdata := s.rdata, inbox := s.inbox }

/-! ### Host accesses -/

/-- A plain register read (40_host_access.md R89): while BUSY = 1 an offset above 0x20 reads 0 (R90). -/
def State.readRegister (off : Nat) (v : Word) (s : State) : State :=
  s.answer (if s.busy && decide (0x20 < off) then 0 else v)

/-- A write the busy rule guards: while BUSY = 1 it only sets BUSYERR (40_host_access.md R100), else it does `f`. -/
def State.guardedWrite (f : State → State) (s : State) : State := if s.busy then s.markBusyErr else f s

/-- A write to a read-only or reserved offset: "no state changes", also while BUSY = 1 (40_host_access.md R99). -/
def State.ignoreWrite (_v : Word) (s : State) : State := s

/-- An access inside the window that is not an aligned 32-bit one: "ignored if a write and returns 0 if a read, with no
side effect on any state" (20_memory.md R61). -/
def State.undefinedAccess (write : Bool) (s : State) : State := if write then s else s.answer 0

/-! ### Command acceptance (41_commands.md R101) -/

/-- An operation command while BUSY = 0: ignored in PHASE ERROR, a Sequence error in a wrong PHASE, else accepted. -/
def State.requestOperation (op : Operation) (s : State) : State :=
  if s.phase = .error then s
  else if s.phase ≠ op.need then s.enterError .sequence
  else { s with done := false, pending := some op }

/-- An illegal command word while BUSY = 0: ignored in PHASE ERROR, else IllegalCommand (30_encoding.md R81). -/
def State.rejectCommand (s : State) : State := if s.phase = .error then s else s.enterError .illegalCommand

/-- `accept(cw)`, as 41_commands.md R101 writes it. -/
def State.accept (cw : Word) (s : State) : State :=
  if s.busy then (if cw = 0x00000001#32 then s.clearRun else s.markBusyErr)
  else if !legalCw cw then s.rejectCommand
  else
    match (cwOpcode cw).toNat with
    | 0 => s
    | 1 => s.clearRun
    | 2 => s.requestOperation .count
    | 3 => s.requestOperation .build
    | 4 => s.requestOperation .gentab
    | 5 => s.requestOperation .pack
    | _ => s.requestOperation .run

end Sys2Proof.Machine
end

