-- ==== Sys2Proof/Machine/Operands.lean ====
section
/-! DEFINITION. The operand forms: the data words of writes (30_encoding.md R83, R84), bit strings as numbers and words,
and the values of the readout registers (10_state.md R35 to R46). -/

namespace Sys2Proof.Machine

/-! ### Data words -/

/-- Does the IN_DATA word have a nonzero bit above SYM_W − 1 (30_encoding.md R83; 40_host_access.md R94)? -/
def symbolOutOfRange (symW : Nat) (v : Word) : Bool := decide (symW < 32) && v >>> symW != 0

/-- CTRL.IE in a CTRL data word (30_encoding.md R84). -/
def ctrlIe (v : Word) : Bool := v.getLsbD 0

/-- CTRL.PAD_MODE in a CTRL data word (30_encoding.md R84). -/
def ctrlPadMode (v : Word) : Bool := v.getLsbD 1

/-- The bytes of a register value on the bus, lowest address first (20_memory.md R63). -/
def busLanes (v : Word) : List Byte :=
  [v.extractLsb' 0 8, v.extractLsb' 8 8, v.extractLsb' 16 8, v.extractLsb' 24 8]

/-- The register value four byte lanes carry, lowest address first (20_memory.md R63). -/
def wordOfLanes : List Byte → Word
  | [b0, b1, b2, b3] => b3 ++ b2 ++ b1 ++ b0
  | _ => 0

/-! ### Bit strings (00_scope.md R9) -/

/-- The number a bit string writes, most significant bit first. -/
def natOfBits (bs : Bits) : Nat := bs.foldl (fun n b => 2 * n + b.toNat) 0

/-- Bits `k` to `k + n − 1` of a bit string, 0 beyond its end. -/
def bitsFrom (bs : Bits) (k n : Nat) : Bits := (List.range n).map fun t => bs.getD (k + t) false

/-- `bin8(v)`: the 8-bit string of `v`, most significant bit first (00_scope.md R9, 20_memory.md R65). -/
def bin8 (v : Nat) : Bits := (List.range 8).map fun t => v.testBit (7 - t)

/-- Payload byte `j` of a bit stream: Σ_{t=0..7} stream[8·j + t] · 2^(7 − t) (20_memory.md R64). -/
def streamByte (stream : Bits) (j : Nat) : Byte := BitVec.ofNat 8 (natOfBits (bitsFrom stream (8 * j) 8))

/-- Word `w` of a code: bit (31 − j) is code[32·w + j], 0 beyond its end (10_state.md R41). 32·w does not wrap
(40_host_access.md R97). -/
def codeWord (code : Bits) (w : Nat) : Word := BitVec.ofNat 32 (natOfBits (bitsFrom code (32 * w) 32))

/-! ### Nodes (10_state.md R51) -/

/-- The frequency a node holds. -/
def Node.freq : Node → Word
  | .leaf f => f
  | .internal f _ _ => f

/-- Is the node internal (NODE_INFO.KIND, 10_state.md R43)? -/
def Node.isInternal : Node → Bool
  | .leaf _ => false
  | .internal _ _ _ => true

/-- The left child of an internal node, 0 for a leaf (10_state.md R45). -/
def Node.leftIndex : Node → Nat
  | .leaf _ => 0
  | .internal _ l _ => l

/-- The right child of an internal node, 0 for a leaf (10_state.md R46). -/
def Node.rightIndex : Node → Nat
  | .leaf _ => 0
  | .internal _ _ r => r

/-- Is the node internal with right child `v`? -/
def Node.hasRight (v : Nat) : Node → Bool
  | .leaf _ => false
  | .internal _ _ r => r == v

/-! ### Values of the identification and parameter registers (10_state.md R15 to R20) -/

/-- ID (10_state.md R15). -/
def idValue : Word := 0x48554646

/-- VERSION (10_state.md R16). -/
def versionValue : Word := 0x00000001

/-- PARAM0: SYM_W in bits [7:0], FREQ_W in bits [15:8] (10_state.md R17). -/
def param0Value (c : Config) : Word := 0#16 ++ BitVec.ofNat 8 Config.freqW ++ BitVec.ofNat 8 c.symW

/-- PARAM1: MAX_SYMS (10_state.md R18). -/
def param1Value (c : Config) : Word := BitVec.ofNat 32 c.maxSyms

/-- PARAM2: MAX_LEN (10_state.md R19). -/
def param2Value (c : Config) : Word := BitVec.ofNat 32 c.maxLen

/-- PARAM3: MAX_OUT (10_state.md R20). -/
def param3Value (c : Config) : Word := BitVec.ofNat 32 c.maxOut

/-! ### Values of the readout registers -/

/-- OUT_DATA (10_state.md R35). -/
def outDataValue (s : State) : Word :=
  if s.outPtr < s.outLen then (Memory.read s.obuf s.outPtr.toNat).setWidth 32 else 0

/-- TAB_SYM (10_state.md R37). -/
def tabSymValue (s : State) : Word :=
  if s.tabIndex < s.nsym then (Memory.read s.ftab s.tabIndex.toNat).sym else 0

/-- TAB_FREQ (10_state.md R38). -/
def tabFreqValue (s : State) : Word :=
  if s.tabIndex < s.nsym then (Memory.read s.ftab s.tabIndex.toNat).freq else 0

/-- TAB_CLEN (10_state.md R39); `len` is the length of the stored code (R52). -/
def tabClenValue (s : State) : Word :=
  if s.tabIndex < s.nsym ∧ s.codeMaxlen ≠ 0 then
    BitVec.ofNat 32 (Memory.read s.ctab s.tabIndex.toNat).length
  else 0

/-- TAB_CODEW (10_state.md R41). -/
def tabCodewValue (s : State) : Word :=
  if s.tabIndex < s.nsym ∧ s.codeMaxlen ≠ 0 then
    codeWord (Memory.read s.ctab s.tabIndex.toNat) s.tabWsel.toNat
  else 0

/-- NODE_INFO (10_state.md R43): KIND, LABEL, ROOT. The label is computed from the valid nodes (log entry 11). -/
def nodeInfoValue (s : State) : Word :=
  if s.nodeIndex < s.nodeCount then
    0#29 ++ BitVec.ofBool (s.nodeIndex == s.nodeCount - 1)
      ++ BitVec.ofBool (s.nodes.any (Node.hasRight s.nodeIndex.toNat))
      ++ BitVec.ofBool (Memory.read s.node s.nodeIndex.toNat).isInternal
  else 0

/-- NODE_FREQ (10_state.md R44). -/
def nodeFreqValue (s : State) : Word :=
  if s.nodeIndex < s.nodeCount then (Memory.read s.node s.nodeIndex.toNat).freq else 0

/-- NODE_LEFT (10_state.md R45). -/
def nodeLeftValue (s : State) : Word :=
  if s.nodeIndex < s.nodeCount then BitVec.ofNat 32 (Memory.read s.node s.nodeIndex.toNat).leftIndex else 0

/-- NODE_RIGHT (10_state.md R46). -/
def nodeRightValue (s : State) : Word :=
  if s.nodeIndex < s.nodeCount then BitVec.ofNat 32 (Memory.read s.node s.nodeIndex.toNat).rightIndex else 0

end Sys2Proof.Machine
end

