-- ==== Sys2Proof/Machine/Count.lean ====
section
/-! DEFINITION. COUNT, the frequency counter (42_frequency.md). -/

namespace Sys2Proof.Machine

/-- `stable_sort_by(key, L)`: ascending by key, elements of equal key in their original order (00_scope.md R9). -/
def stableSortBy {α : Type} (key : α → Nat) (l : List α) : List α := l.insertionSort fun a b => key a ≤ key b

/-- One (symbol, frequency) pair per distinct symbol of the input; every occurrence counted once (42_frequency.md R108). -/
def countPairs (input : List Sym) : List FreqEntry :=
  input.dedup.map fun x => ⟨x, BitVec.ofNat 32 (input.count x)⟩

/-- The frequency table: "sorted first by symbol ascending, then re-sorted by frequency ascending (stable)"
(42_frequency.md R108). -/
def frequencyTable (input : List Sym) : List FreqEntry :=
  stableSortBy (fun p => p.freq.toNat) (stableSortBy (fun p => p.sym.toNat) (countPairs input))

/-- `perform(COUNT)` (42_frequency.md R108). -/
def performCount (s : State) : Except Err State :=
  if s.cfg.maxSyms < s.input.dedup.length then .error .capacityExceeded
  else .ok { s with
    ftab := Memory.fill s.ftab 0 (frequencyTable s.input)
    nsym := BitVec.ofNat 32 s.input.dedup.length }

end Sys2Proof.Machine
end

