-- ==== Sys2Proof/Machine/Build.lean ====
section
/-! DEFINITION. BUILD, the Huffman tree builder (43_tree_builder.md). A node index is a position in the list of nodes made
so far: leaves first, in FTAB order, then internal nodes in creation order (R112). -/

namespace Sys2Proof.Machine

/-- The frequency of node `v` as a number (43_tree_builder.md R113, `fr`). -/
def nodeKey (nodes : List Node) (v : Nat) : Nat := (nodes.getD v default).freq.toNat

/-- The first-encountered minimum of a list, and the list without it (43_tree_builder.md R113). -/
def takeFirstMin {α : Type} (key : α → Nat) : List α → Option (α × List α)
  | [] => none
  | x :: xs =>
    match takeFirstMin key xs with
    | none => some (x, [])
    | some (m, rest) => if key x ≤ key m then some (x, xs) else some (m, x :: rest)

/-- `order(a, b)`: the one of smaller frequency first, `a` on equality (43_tree_builder.md R113). -/
def orderPair (nodes : List Node) (a b : Nat) : Nat × Nat :=
  if nodeKey nodes b < nodeKey nodes a then (b, a) else (a, b)

/-- `select` and `order` together (43_tree_builder.md R113): min1, min2 and the working list without them; none when it
has fewer than two nodes. -/
def selectPair (nodes : List Node) (wl : List Nat) : Option ((Nat × Nat) × List Nat) :=
  match takeFirstMin (nodeKey nodes) wl with
  | none => none
  | some (a, rest) =>
    match takeFirstMin (nodeKey nodes) rest with
    | none => none
    | some (b, rest') => some (orderPair nodes a b, rest')

/-- The internal node over two nodes (43_tree_builder.md R114). -/
def mergeNode (nodes : List Node) (min1 min2 : Nat) : Node :=
  .internal ((nodes.getD min1 default).freq + (nodes.getD min2 default).freq) min1 min2

/-- The loop of 43_tree_builder.md R111: merge, append the new node, re-sort stably (R115), until one node is left. The
first argument bounds the number of rounds; the length of the working list is enough (R116). -/
def mergeLoop : Nat → List Node → List Nat → List Node
  | 0, nodes, _ => nodes
  | k + 1, nodes, wl =>
    match selectPair nodes wl with
    | none => nodes
    | some ((min1, min2), rest) =>
      let nodes' := nodes ++ [mergeNode nodes min1 min2]
      mergeLoop k nodes' (stableSortBy (nodeKey nodes') (rest ++ [nodes.length]))

/-- The nodes BUILD makes from the frequencies of FTAB (43_tree_builder.md R111, R112). -/
def buildNodes (freqs : List Word) : List Node :=
  mergeLoop freqs.length (freqs.map .leaf) (List.range freqs.length)

/-- `perform(BUILD)` (43_tree_builder.md R111, R118). -/
def performBuild (s : State) : Except Err State :=
  if s.nsym = 0 then .error .emptyAlphabet
  else
    let nodes := buildNodes (s.table.map FreqEntry.freq)
    .ok { s with
      node := Memory.fill s.node 0 nodes
      nodeCount := BitVec.ofNat 32 nodes.length
      rootFreq := (nodes.getD (nodes.length - 1) default).freq }

end Sys2Proof.Machine
end

