-- ==== Sys2Proof/Machine/Gentab.lean ====
section
/-! DEFINITION. GENTAB, the encoding-table generator (44_encoding_table.md). -/

namespace Sys2Proof.Machine

/-- `visit(v, p)` (44_encoding_table.md R121): the codes of the leaves below node `v`, left before right, `p` the edge
labels from the root to `v`. The first argument bounds the depth; the number of nodes is enough in every tree BUILD makes
(43_tree_builder.md R120; log entry 12). -/
def visit (nodes : List Node) : Nat → Nat → Bits → List (Nat × Bits)
  | 0, _, _ => []
  | k + 1, v, p =>
    match nodes.getD v default with
    | .leaf _ => [(v, p)]
    | .internal _ l r => visit nodes k l (p ++ [false]) ++ visit nodes k r (p ++ [true])

/-- The code of each leaf (44_encoding_table.md R121): "0" for a root that is a leaf (R123), else its path (R122). -/
def leafCodes (nodes : List Node) : List (Nat × Bits) :=
  match nodes.getD (nodes.length - 1) default with
  | .leaf _ => [(nodes.length - 1, [false])]
  | .internal _ _ _ => visit nodes nodes.length (nodes.length - 1) []

/-- `C[i]`, the code of leaf `i`; empty for an index the traversal does not reach (log entry 12). -/
def codeOf (assigned : List (Nat × Bits)) (i : Nat) : Bits := (assigned.lookup i).getD []

/-- The table of the first `n` codes (44_encoding_table.md R121). -/
def codeTable (nodes : List Node) (n : Nat) : List Bits := (List.range n).map (codeOf (leafCodes nodes))

/-- The largest length of a list of codes (10_state.md R47). -/
def maxCodeLength (codes : List Bits) : Nat := codes.foldl (fun m c => max m c.length) 0

/-- `perform(GENTAB)` (44_encoding_table.md R121). -/
def performGentab (s : State) : Except Err State :=
  let codes := codeTable s.nodes s.nsym.toNat
  .ok { s with
    ctab := Memory.fill s.ctab 0 codes
    codeMaxlen := BitVec.ofNat 32 (maxCodeLength codes) }

end Sys2Proof.Machine
end

