-- ==== Sys2Proof/Machine/Pack.lean ====
section
/-! DEFINITION. PACK, the bit packer (45_bit_packer.md). -/

namespace Sys2Proof.Machine

/-- The `i` < NSYM with FTAB[i].sym = x (45_bit_packer.md R126). -/
def symbolIndex (table : List FreqEntry) (x : Sym) : Option Nat := table.findIdx? fun p => p.sym == x

/-- Step 1 (45_bit_packer.md R127): the codes of the input symbols in input order, UnknownSymbol at the first symbol that
has no entry. -/
def encodeInput (table : List FreqEntry) (codes : List Bits) : List Sym → Except Err Bits
  | [] => .ok []
  | x :: xs =>
    match symbolIndex table x with
    | none => .error .unknownSymbol
    | some i =>
      match encodeInput table codes xs with
      | .error e => .error e
      | .ok bits => .ok (codes.getD i [] ++ bits)

/-- Step 2, the padding count `extra`: reference padding (45_bit_packer.md R128) or corrected padding (R129). -/
def padCount (padMode : Bool) (body : Nat) : Nat :=
  if padMode then (8 - body % 8) % 8 else 8 - body % 8

/-- Header, body and padding (45_bit_packer.md R130). -/
def packStream (bits : Bits) (extra : Nat) : Bits := bin8 extra ++ bits ++ List.replicate extra false

/-- Step 3, the bytes of a stream (45_bit_packer.md R131). -/
def streamBytes (stream : Bits) : List Byte := (List.range (stream.length / 8)).map (streamByte stream)

/-- `perform(PACK)` (45_bit_packer.md R126, R132, R133). -/
def performPack (s : State) : Except Err State :=
  match encodeInput s.table s.codes s.input with
  | .error e => .error e
  | .ok bits =>
    let extra := padCount s.padMode bits.length
    let stream := packStream bits extra
    if stream.length % 8 ≠ 0 then .error .misalignedBitstream
    else if s.cfg.maxOut < stream.length / 8 then .error .outputOverflow
    else .ok { s with
      obuf := Memory.fill s.obuf 0 (streamBytes stream)
      outLen := BitVec.ofNat 32 (stream.length / 8)
      outPtr := 0
      bodyBits := BitVec.ofNat 32 bits.length
      pad := BitVec.ofNat 4 extra }

end Sys2Proof.Machine
end

