-- ==== Sys2Proof/Machine/CoreStep.lean ====
section
/-! DEFINITION. RUN and the core step: performing the pending operation (41_commands.md R103, R106, R107). -/

namespace Sys2Proof.Machine

/-- The stages of RUN, each with the PHASE its success leaves (41_commands.md R102, R106). -/
def runStages : List ((State → Except Err State) × Phase) :=
  [(performCount, .counted), (performBuild, .built), (performGentab, .tabled), (performPack, .packed)]

/-- `perform(RUN)` (41_commands.md R106): the stages in order, stopping at the first error; "results of the stages
already done stay committed". -/
def performStages : List ((State → Except Err State) × Phase) → State → State × Option Err
  | [], s => (s, none)
  | (perform, phase) :: stages, s =>
    match perform s with
    | .error e => (s, some e)
    | .ok s' => performStages stages { s' with phase := phase }

/-- An operation of one stage: its results, or its error and nothing written (41_commands.md R103). -/
def performStage (perform : State → Except Err State) (s : State) : State × Option Err :=
  match perform s with
  | .error e => (s, some e)
  | .ok s' => (s', none)

/-- `perform(op)` (41_commands.md R103): the state it leaves and the error, if any. -/
def performOperation : Operation → State → State × Option Err
  | .count, s => performStage performCount s
  | .build, s => performStage performBuild s
  | .gentab, s => performStage performGentab s
  | .pack, s => performStage performPack s
  | .run, s => performStages runStages s

/-- `complete(op)` (41_commands.md R107). -/
def State.complete (op : Operation) (s : State) : State := { s with phase := op.next, done := true }

/-- The end of a core step (41_commands.md R103): PENDING cleared, then completion or error entry. -/
def State.finish (op : Operation) (r : State × Option Err) : State :=
  match r.2 with
  | none => { r.1 with pending := none }.complete op
  | some e => { r.1 with pending := none }.enterError e

/-- The core step (41_commands.md R103), "enabled exactly when STATUS.BUSY = 1": a turn the core is given while nothing is
pending does nothing (60_exceptions.md R156; log entry 4). -/
def State.coreStep (s : State) : State :=
  match s.pending with
  | none => s
  | some op => State.finish op (performOperation op s)

end Sys2Proof.Machine
end

