-- ==== Sys2Proof/Machine/Commands.lean ====
section
/-! DEFINITION. The command words, as they act when the host writes them to CMD (41_commands.md R101). While BUSY = 1 every
one but the exact CLEAR only sets BUSYERR (40_host_access.md R100). The work of an accepted operation is done by the core
step (41_commands.md R103; Machine/CoreStep.lean). -/

namespace Sys2Proof.Machine

/-- NOP (41_commands.md R104). -/
def execNop (s : State) : Host.Outcome State Fault Refusal := .next (s.guardedWrite id)

/-- CLEAR (41_commands.md R105), accepted in every PHASE and also while BUSY = 1. -/
def execClear (s : State) : Host.Outcome State Fault Refusal := .next s.clearRun

/-- COUNT (42_frequency.md R108), accepted by 41_commands.md R101. -/
def execCount (s : State) : Host.Outcome State Fault Refusal := .next (s.guardedWrite (State.requestOperation .count))

/-- BUILD (43_tree_builder.md R111), accepted by 41_commands.md R101. -/
def execBuild (s : State) : Host.Outcome State Fault Refusal := .next (s.guardedWrite (State.requestOperation .build))

/-- GENTAB (44_encoding_table.md R121), accepted by 41_commands.md R101. -/
def execGentab (s : State) : Host.Outcome State Fault Refusal := .next (s.guardedWrite (State.requestOperation .gentab))

/-- PACK (45_bit_packer.md R126), accepted by 41_commands.md R101. -/
def execPack (s : State) : Host.Outcome State Fault Refusal := .next (s.guardedWrite (State.requestOperation .pack))

/-- RUN (41_commands.md R106), accepted by 41_commands.md R101. -/
def execRun (s : State) : Host.Outcome State Fault Refusal := .next (s.guardedWrite (State.requestOperation .run))

/-- An illegal command word (30_encoding.md R81; 60_exceptions.md R144, R146). -/
def execIllegalCw (_cw : Word) (s : State) : Host.Outcome State Fault Refusal := .next (s.guardedWrite State.rejectCommand)

end Sys2Proof.Machine
end

