-- ==== Sys2Proof/Machine/Flags.lean ====
section
/-! DEFINITION. The flags and the status and control words (10_state.md R21, R23 to R25, R56, R57). No operation sets a
flag as an arithmetic side effect (R57). -/

namespace Sys2Proof.Machine

/-- The irq wire: CTRL.IE AND STATUS.DONE (10_state.md R56, 60_exceptions.md R150). -/
def State.irq (s : State) : Bool := s.ie && s.done

/-- The encoding of PHASE (10_state.md R24). -/
def Phase.code : Phase → BitVec 3
  | .idle => 0
  | .counted => 1
  | .built => 2
  | .tabled => 3
  | .packed => 4
  | .error => 7

/-- The error codes (60_exceptions.md R135). -/
def Err.code : Err → BitVec 4
  | .emptyAlphabet => 1
  | .unknownSymbol => 2
  | .misalignedBitstream => 3
  | .sequence => 4
  | .inputOverflow => 5
  | .symbolRange => 6
  | .capacityExceeded => 7
  | .outputOverflow => 8
  | .illegalCommand => 9

/-- STATUS.ERR: the code, or 0 (10_state.md R25). -/
def errField : Option Err → BitVec 4
  | none => 0
  | some e => e.code

/-- STATUS (10_state.md R23): BUSY, DONE, BUSYERR, IRQ, PHASE, reserved, ERR, reserved from bit 0 up. -/
def statusValue (s : State) : Word :=
  0#20 ++ errField s.err ++ 0#1 ++ s.phase.code ++ BitVec.ofBool s.irq ++ BitVec.ofBool s.busyErr
    ++ BitVec.ofBool s.done ++ BitVec.ofBool s.busy

/-- CTRL (10_state.md R21): IE, PAD_MODE, reserved from bit 0 up. -/
def ctrlValue (s : State) : Word := 0#30 ++ BitVec.ofBool s.padMode ++ BitVec.ofBool s.ie

end Sys2Proof.Machine
end

