-- ==== Sys2Proof/Machine/Reads.lean ====
section
/-! DEFINITION. The reads of the register window (40_host_access.md R89 to R91). The value of each register is that of
10_state.md; no plain read has a side effect (20_memory.md R68). -/

namespace Sys2Proof.Machine

/-- RD ID, offset 0x00 (40_host_access.md R89; 10_state.md R15). -/
def execRdId (s : State) : Host.Outcome State Fault Refusal := .next (s.readRegister 0x00 idValue)

/-- RD VERSION, offset 0x04 (40_host_access.md R89; 10_state.md R16). -/
def execRdVersion (s : State) : Host.Outcome State Fault Refusal := .next (s.readRegister 0x04 versionValue)

/-- RD PARAM0, offset 0x08 (40_host_access.md R89; 10_state.md R17). -/
def execRdParam0 (s : State) : Host.Outcome State Fault Refusal := .next (s.readRegister 0x08 (param0Value s.cfg))

/-- RD PARAM1, offset 0x0C (40_host_access.md R89; 10_state.md R18). -/
def execRdParam1 (s : State) : Host.Outcome State Fault Refusal := .next (s.readRegister 0x0C (param1Value s.cfg))

/-- RD PARAM2, offset 0x10 (40_host_access.md R89; 10_state.md R19). -/
def execRdParam2 (s : State) : Host.Outcome State Fault Refusal := .next (s.readRegister 0x10 (param2Value s.cfg))

/-- RD PARAM3, offset 0x14 (40_host_access.md R89; 10_state.md R20). -/
def execRdParam3 (s : State) : Host.Outcome State Fault Refusal := .next (s.readRegister 0x14 (param3Value s.cfg))

/-- RD CTRL, offset 0x18 (40_host_access.md R89; 10_state.md R21). -/
def execRdCtrl (s : State) : Host.Outcome State Fault Refusal := .next (s.readRegister 0x18 (ctrlValue s))

/-- RD CMD, offset 0x1C (40_host_access.md R89; 10_state.md R14, R22). -/
def execRdCmd (s : State) : Host.Outcome State Fault Refusal := .next (s.readRegister 0x1C 0)

/-- RD STATUS, offset 0x20 (40_host_access.md R89; 10_state.md R23). -/
def execRdStatus (s : State) : Host.Outcome State Fault Refusal := .next (s.readRegister 0x20 (statusValue s))

/-- RD IN_DATA, offset 0x24 (40_host_access.md R89; 10_state.md R14, R26). -/
def execRdInData (s : State) : Host.Outcome State Fault Refusal := .next (s.readRegister 0x24 0)

/-- RD IN_LEN, offset 0x28 (40_host_access.md R89; 10_state.md R27). -/
def execRdInLen (s : State) : Host.Outcome State Fault Refusal := .next (s.readRegister 0x28 s.inLen)

/-- RD NSYM, offset 0x2C (40_host_access.md R89; 10_state.md R28). -/
def execRdNsym (s : State) : Host.Outcome State Fault Refusal := .next (s.readRegister 0x2C s.nsym)

/-- RD NODE_COUNT, offset 0x30 (40_host_access.md R89; 10_state.md R29). -/
def execRdNodeCount (s : State) : Host.Outcome State Fault Refusal := .next (s.readRegister 0x30 s.nodeCount)

/-- RD ROOT_FREQ, offset 0x34 (40_host_access.md R89; 10_state.md R30). -/
def execRdRootFreq (s : State) : Host.Outcome State Fault Refusal := .next (s.readRegister 0x34 s.rootFreq)

/-- RD BODY_BITS, offset 0x38 (40_host_access.md R89; 10_state.md R31). -/
def execRdBodyBits (s : State) : Host.Outcome State Fault Refusal := .next (s.readRegister 0x38 s.bodyBits)

/-- RD PAD, offset 0x3C (40_host_access.md R89; 10_state.md R32). -/
def execRdPad (s : State) : Host.Outcome State Fault Refusal := .next (s.readRegister 0x3C (s.pad.setWidth 32))

/-- RD OUT_LEN, offset 0x40 (40_host_access.md R89; 10_state.md R33). -/
def execRdOutLen (s : State) : Host.Outcome State Fault Refusal := .next (s.readRegister 0x40 s.outLen)

/-- RD OUT_PTR, offset 0x44 (40_host_access.md R89; 10_state.md R34). -/
def execRdOutPtr (s : State) : Host.Outcome State Fault Refusal := .next (s.readRegister 0x44 s.outPtr)

/-- RD OUT_DATA, offset 0x48 (40_host_access.md R91; 10_state.md R35): pops one payload byte. -/
def execRdOutData (s : State) : Host.Outcome State Fault Refusal :=
  if s.busy then .next (s.answer 0)
  else if s.outPtr < s.outLen then .next { s.answer (outDataValue s) with outPtr := s.outPtr + 1 }
  else .next (s.answer 0)

/-- RD TAB_INDEX, offset 0x4C (40_host_access.md R89; 10_state.md R36). -/
def execRdTabIndex (s : State) : Host.Outcome State Fault Refusal := .next (s.readRegister 0x4C s.tabIndex)

/-- RD TAB_SYM, offset 0x50 (40_host_access.md R89; 10_state.md R37). -/
def execRdTabSym (s : State) : Host.Outcome State Fault Refusal := .next (s.readRegister 0x50 (tabSymValue s))

/-- RD TAB_FREQ, offset 0x54 (40_host_access.md R89; 10_state.md R38). -/
def execRdTabFreq (s : State) : Host.Outcome State Fault Refusal := .next (s.readRegister 0x54 (tabFreqValue s))

/-- RD TAB_CLEN, offset 0x58 (40_host_access.md R89; 10_state.md R39). -/
def execRdTabClen (s : State) : Host.Outcome State Fault Refusal := .next (s.readRegister 0x58 (tabClenValue s))

/-- RD TAB_WSEL, offset 0x5C (40_host_access.md R89; 10_state.md R40). -/
def execRdTabWsel (s : State) : Host.Outcome State Fault Refusal := .next (s.readRegister 0x5C s.tabWsel)

/-- RD TAB_CODEW, offset 0x60 (40_host_access.md R89; 10_state.md R41). -/
def execRdTabCodew (s : State) : Host.Outcome State Fault Refusal := .next (s.readRegister 0x60 (tabCodewValue s))

/-- RD NODE_INDEX, offset 0x64 (40_host_access.md R89; 10_state.md R42). -/
def execRdNodeIndex (s : State) : Host.Outcome State Fault Refusal := .next (s.readRegister 0x64 s.nodeIndex)

/-- RD NODE_INFO, offset 0x68 (40_host_access.md R89; 10_state.md R43). -/
def execRdNodeInfo (s : State) : Host.Outcome State Fault Refusal := .next (s.readRegister 0x68 (nodeInfoValue s))

/-- RD NODE_FREQ, offset 0x6C (40_host_access.md R89; 10_state.md R44). -/
def execRdNodeFreq (s : State) : Host.Outcome State Fault Refusal := .next (s.readRegister 0x6C (nodeFreqValue s))

/-- RD NODE_LEFT, offset 0x70 (40_host_access.md R89; 10_state.md R45). -/
def execRdNodeLeft (s : State) : Host.Outcome State Fault Refusal := .next (s.readRegister 0x70 (nodeLeftValue s))

/-- RD NODE_RIGHT, offset 0x74 (40_host_access.md R89; 10_state.md R46). -/
def execRdNodeRight (s : State) : Host.Outcome State Fault Refusal := .next (s.readRegister 0x74 (nodeRightValue s))

/-- RD CODE_MAXLEN, offset 0x78 (40_host_access.md R89; 10_state.md R47). -/
def execRdCodeMaxlen (s : State) : Host.Outcome State Fault Refusal := .next (s.readRegister 0x78 s.codeMaxlen)

/-- RD RESERVED_7C, offset 0x7C (40_host_access.md R89; 10_state.md R48). -/
def execRdReserved7c (s : State) : Host.Outcome State Fault Refusal := .next (s.readRegister 0x7C 0)

end Sys2Proof.Machine
end

