-- ==== Sys2Proof/Machine/Writes.lean ====
section
/-! DEFINITION. The writes to the register window (40_host_access.md R92 to R100). -/

namespace Sys2Proof.Machine

/-- A push while BUSY = 0 (40_host_access.md R94): ignored in PHASE ERROR, then Sequence, SymbolRange and InputOverflow in
that order, else IBUF[IN_LEN] takes the symbol. -/
def State.pushSymbol (v : Word) (s : State) : State :=
  if s.phase = .error then s
  else if s.phase ≠ .idle then s.enterError .sequence
  else if symbolOutOfRange s.cfg.symW v then s.enterError .symbolRange
  else if s.inLen.toNat = s.cfg.maxLen then s.enterError .inputOverflow
  else { s with ibuf := Memory.write s.ibuf s.inLen.toNat v, inLen := s.inLen + 1 }

/-- A CTRL write while BUSY = 0 (40_host_access.md R92). -/
def State.setCtrl (v : Word) (s : State) : State := { s with ie := ctrlIe v, padMode := ctrlPadMode v }

/-- WR ID, offset 0x00 (40_host_access.md R99). -/
def execWrId (v : Word) (s : State) : Host.Outcome State Fault Refusal := .next (s.ignoreWrite v)

/-- WR VERSION, offset 0x04 (40_host_access.md R99). -/
def execWrVersion (v : Word) (s : State) : Host.Outcome State Fault Refusal := .next (s.ignoreWrite v)

/-- WR PARAM0, offset 0x08 (40_host_access.md R99). -/
def execWrParam0 (v : Word) (s : State) : Host.Outcome State Fault Refusal := .next (s.ignoreWrite v)

/-- WR PARAM1, offset 0x0C (40_host_access.md R99). -/
def execWrParam1 (v : Word) (s : State) : Host.Outcome State Fault Refusal := .next (s.ignoreWrite v)

/-- WR PARAM2, offset 0x10 (40_host_access.md R99). -/
def execWrParam2 (v : Word) (s : State) : Host.Outcome State Fault Refusal := .next (s.ignoreWrite v)

/-- WR PARAM3, offset 0x14 (40_host_access.md R99). -/
def execWrParam3 (v : Word) (s : State) : Host.Outcome State Fault Refusal := .next (s.ignoreWrite v)

/-- WR CTRL, offset 0x18 (40_host_access.md R92, R100). -/
def execWrCtrl (v : Word) (s : State) : Host.Outcome State Fault Refusal :=
  .next (s.guardedWrite (State.setCtrl v))

/-- WR CMD, offset 0x1C (40_host_access.md R93): delivers a command word. -/
def execWrCmd (cw : Word) (s : State) : Host.Outcome State Fault Refusal := .next (s.accept cw)

/-- WR STATUS, offset 0x20 (40_host_access.md R99). -/
def execWrStatus (v : Word) (s : State) : Host.Outcome State Fault Refusal := .next (s.ignoreWrite v)

/-- WR IN_DATA, offset 0x24 (40_host_access.md R94, R100). -/
def execWrInData (v : Word) (s : State) : Host.Outcome State Fault Refusal :=
  .next (s.guardedWrite (State.pushSymbol v))

/-- WR IN_LEN, offset 0x28 (40_host_access.md R99). -/
def execWrInLen (v : Word) (s : State) : Host.Outcome State Fault Refusal := .next (s.ignoreWrite v)

/-- WR NSYM, offset 0x2C (40_host_access.md R99). -/
def execWrNsym (v : Word) (s : State) : Host.Outcome State Fault Refusal := .next (s.ignoreWrite v)

/-- WR NODE_COUNT, offset 0x30 (40_host_access.md R99). -/
def execWrNodeCount (v : Word) (s : State) : Host.Outcome State Fault Refusal := .next (s.ignoreWrite v)

/-- WR ROOT_FREQ, offset 0x34 (40_host_access.md R99). -/
def execWrRootFreq (v : Word) (s : State) : Host.Outcome State Fault Refusal := .next (s.ignoreWrite v)

/-- WR BODY_BITS, offset 0x38 (40_host_access.md R99). -/
def execWrBodyBits (v : Word) (s : State) : Host.Outcome State Fault Refusal := .next (s.ignoreWrite v)

/-- WR PAD, offset 0x3C (40_host_access.md R99). -/
def execWrPad (v : Word) (s : State) : Host.Outcome State Fault Refusal := .next (s.ignoreWrite v)

/-- WR OUT_LEN, offset 0x40 (40_host_access.md R99). -/
def execWrOutLen (v : Word) (s : State) : Host.Outcome State Fault Refusal := .next (s.ignoreWrite v)

/-- WR OUT_PTR, offset 0x44 (40_host_access.md R95, R100). -/
def execWrOutPtr (v : Word) (s : State) : Host.Outcome State Fault Refusal :=
  .next (s.guardedWrite (fun s => { s with outPtr := v }))

/-- WR OUT_DATA, offset 0x48 (40_host_access.md R99). -/
def execWrOutData (v : Word) (s : State) : Host.Outcome State Fault Refusal := .next (s.ignoreWrite v)

/-- WR TAB_INDEX, offset 0x4C (40_host_access.md R96, R100). -/
def execWrTabIndex (v : Word) (s : State) : Host.Outcome State Fault Refusal :=
  .next (s.guardedWrite (fun s => { s with tabIndex := v }))

/-- WR TAB_SYM, offset 0x50 (40_host_access.md R99). -/
def execWrTabSym (v : Word) (s : State) : Host.Outcome State Fault Refusal := .next (s.ignoreWrite v)

/-- WR TAB_FREQ, offset 0x54 (40_host_access.md R99). -/
def execWrTabFreq (v : Word) (s : State) : Host.Outcome State Fault Refusal := .next (s.ignoreWrite v)

/-- WR TAB_CLEN, offset 0x58 (40_host_access.md R99). -/
def execWrTabClen (v : Word) (s : State) : Host.Outcome State Fault Refusal := .next (s.ignoreWrite v)

/-- WR TAB_WSEL, offset 0x5C (40_host_access.md R97, R100). -/
def execWrTabWsel (v : Word) (s : State) : Host.Outcome State Fault Refusal :=
  .next (s.guardedWrite (fun s => { s with tabWsel := v }))

/-- WR TAB_CODEW, offset 0x60 (40_host_access.md R99). -/
def execWrTabCodew (v : Word) (s : State) : Host.Outcome State Fault Refusal := .next (s.ignoreWrite v)

/-- WR NODE_INDEX, offset 0x64 (40_host_access.md R98, R100). -/
def execWrNodeIndex (v : Word) (s : State) : Host.Outcome State Fault Refusal :=
  .next (s.guardedWrite (fun s => { s with nodeIndex := v }))

/-- WR NODE_INFO, offset 0x68 (40_host_access.md R99). -/
def execWrNodeInfo (v : Word) (s : State) : Host.Outcome State Fault Refusal := .next (s.ignoreWrite v)

/-- WR NODE_FREQ, offset 0x6C (40_host_access.md R99). -/
def execWrNodeFreq (v : Word) (s : State) : Host.Outcome State Fault Refusal := .next (s.ignoreWrite v)

/-- WR NODE_LEFT, offset 0x70 (40_host_access.md R99). -/
def execWrNodeLeft (v : Word) (s : State) : Host.Outcome State Fault Refusal := .next (s.ignoreWrite v)

/-- WR NODE_RIGHT, offset 0x74 (40_host_access.md R99). -/
def execWrNodeRight (v : Word) (s : State) : Host.Outcome State Fault Refusal := .next (s.ignoreWrite v)

/-- WR CODE_MAXLEN, offset 0x78 (40_host_access.md R99). -/
def execWrCodeMaxlen (v : Word) (s : State) : Host.Outcome State Fault Refusal := .next (s.ignoreWrite v)

/-- WR RESERVED_7C, offset 0x7C (40_host_access.md R99). -/
def execWrReserved7c (v : Word) (s : State) : Host.Outcome State Fault Refusal := .next (s.ignoreWrite v)

end Sys2Proof.Machine
end

