-- ==== Sys2Proof/Machine/Dispatch.lean ====
section
/-! DEFINITION. One arm per instruction. -/

namespace Sys2Proof.Machine

/-- The meaning of each instruction as the host step that performs it (40_host_access.md, 41_commands.md). -/
def exec (i : Instr) (s : State) : Host.Outcome State Fault Refusal :=
  match i with
  | .nop => Sys2Proof.Machine.execNop s
  | .clear => Sys2Proof.Machine.execClear s
  | .count => Sys2Proof.Machine.execCount s
  | .build => Sys2Proof.Machine.execBuild s
  | .gentab => Sys2Proof.Machine.execGentab s
  | .pack => Sys2Proof.Machine.execPack s
  | .run => Sys2Proof.Machine.execRun s
  | .illegalCw cw => Sys2Proof.Machine.execIllegalCw cw s
  | .rdId => Sys2Proof.Machine.execRdId s
  | .rdVersion => Sys2Proof.Machine.execRdVersion s
  | .rdParam0 => Sys2Proof.Machine.execRdParam0 s
  | .rdParam1 => Sys2Proof.Machine.execRdParam1 s
  | .rdParam2 => Sys2Proof.Machine.execRdParam2 s
  | .rdParam3 => Sys2Proof.Machine.execRdParam3 s
  | .rdCtrl => Sys2Proof.Machine.execRdCtrl s
  | .rdCmd => Sys2Proof.Machine.execRdCmd s
  | .rdStatus => Sys2Proof.Machine.execRdStatus s
  | .rdInData => Sys2Proof.Machine.execRdInData s
  | .rdInLen => Sys2Proof.Machine.execRdInLen s
  | .rdNsym => Sys2Proof.Machine.execRdNsym s
  | .rdNodeCount => Sys2Proof.Machine.execRdNodeCount s
  | .rdRootFreq => Sys2Proof.Machine.execRdRootFreq s
  | .rdBodyBits => Sys2Proof.Machine.execRdBodyBits s
  | .rdPad => Sys2Proof.Machine.execRdPad s
  | .rdOutLen => Sys2Proof.Machine.execRdOutLen s
  | .rdOutPtr => Sys2Proof.Machine.execRdOutPtr s
  | .rdOutData => Sys2Proof.Machine.execRdOutData s
  | .rdTabIndex => Sys2Proof.Machine.execRdTabIndex s
  | .rdTabSym => Sys2Proof.Machine.execRdTabSym s
  | .rdTabFreq => Sys2Proof.Machine.execRdTabFreq s
  | .rdTabClen => Sys2Proof.Machine.execRdTabClen s
  | .rdTabWsel => Sys2Proof.Machine.execRdTabWsel s
  | .rdTabCodew => Sys2Proof.Machine.execRdTabCodew s
  | .rdNodeIndex => Sys2Proof.Machine.execRdNodeIndex s
  | .rdNodeInfo => Sys2Proof.Machine.execRdNodeInfo s
  | .rdNodeFreq => Sys2Proof.Machine.execRdNodeFreq s
  | .rdNodeLeft => Sys2Proof.Machine.execRdNodeLeft s
  | .rdNodeRight => Sys2Proof.Machine.execRdNodeRight s
  | .rdCodeMaxlen => Sys2Proof.Machine.execRdCodeMaxlen s
  | .rdReserved7c => Sys2Proof.Machine.execRdReserved7c s
  | .wrId v => Sys2Proof.Machine.execWrId v s
  | .wrVersion v => Sys2Proof.Machine.execWrVersion v s
  | .wrParam0 v => Sys2Proof.Machine.execWrParam0 v s
  | .wrParam1 v => Sys2Proof.Machine.execWrParam1 v s
  | .wrParam2 v => Sys2Proof.Machine.execWrParam2 v s
  | .wrParam3 v => Sys2Proof.Machine.execWrParam3 v s
  | .wrCtrl v => Sys2Proof.Machine.execWrCtrl v s
  | .wrCmd cw => Sys2Proof.Machine.execWrCmd cw s
  | .wrStatus v => Sys2Proof.Machine.execWrStatus v s
  | .wrInData v => Sys2Proof.Machine.execWrInData v s
  | .wrInLen v => Sys2Proof.Machine.execWrInLen v s
  | .wrNsym v => Sys2Proof.Machine.execWrNsym v s
  | .wrNodeCount v => Sys2Proof.Machine.execWrNodeCount v s
  | .wrRootFreq v => Sys2Proof.Machine.execWrRootFreq v s
  | .wrBodyBits v => Sys2Proof.Machine.execWrBodyBits v s
  | .wrPad v => Sys2Proof.Machine.execWrPad v s
  | .wrOutLen v => Sys2Proof.Machine.execWrOutLen v s
  | .wrOutPtr v => Sys2Proof.Machine.execWrOutPtr v s
  | .wrOutData v => Sys2Proof.Machine.execWrOutData v s
  | .wrTabIndex v => Sys2Proof.Machine.execWrTabIndex v s
  | .wrTabSym v => Sys2Proof.Machine.execWrTabSym v s
  | .wrTabFreq v => Sys2Proof.Machine.execWrTabFreq v s
  | .wrTabClen v => Sys2Proof.Machine.execWrTabClen v s
  | .wrTabWsel v => Sys2Proof.Machine.execWrTabWsel v s
  | .wrTabCodew v => Sys2Proof.Machine.execWrTabCodew v s
  | .wrNodeIndex v => Sys2Proof.Machine.execWrNodeIndex v s
  | .wrNodeInfo v => Sys2Proof.Machine.execWrNodeInfo v s
  | .wrNodeFreq v => Sys2Proof.Machine.execWrNodeFreq v s
  | .wrNodeLeft v => Sys2Proof.Machine.execWrNodeLeft v s
  | .wrNodeRight v => Sys2Proof.Machine.execWrNodeRight v s
  | .wrCodeMaxlen v => Sys2Proof.Machine.execWrCodeMaxlen v s
  | .wrReserved7c v => Sys2Proof.Machine.execWrReserved7c v s

end Sys2Proof.Machine
end

