-- ==== Sys2Proof/Machine/Bus.lean ====
section
/-! DEFINITION. Host accesses as the machine meets them: a word in one of the two formats (30_encoding.md R77), or an
access a platform bus presents by address and width (20_memory.md R59 to R63). -/

namespace Sys2Proof.Machine

/-- One host access given as a word: the instruction it denotes, or a misaligned access (30_encoding.md R78). -/
def State.hostAccess (e : Encoded) (s : State) : Host.Outcome State Fault Refusal :=
  match decode e with
  | .ok i => exec i s
  | .error (.misaligned write _) => .next (s.undefinedAccess write)

/-- Is a bus address in the register window (20_memory.md R59)? -/
def inWindow (base addr : Nat) : Bool := decide (base ≤ addr) && decide (addr < base + 128)

/-- One access as the bus presents it. Outside the window it is not decoded (20_memory.md R59; log entry 10); inside, a
32-bit access is the BOW of its offset (30_encoding.md R78) and any other width is ignored or reads 0 (20_memory.md R61). -/
def State.busAccess (a : BusAccess) (s : State) : Host.Outcome State Fault Refusal :=
  match a with
  | .read addr size =>
    if !inWindow s.cfg.base addr then .next s
    else if size = 4 then s.hostAccess (.bow (bowWord false (BitVec.ofNat 7 (addr - s.cfg.base)) 0))
    else .next (s.undefinedAccess false)
  | .write addr bytes =>
    if !inWindow s.cfg.base addr then .next s
    else if bytes.length = 4 then
      s.hostAccess (.bow (bowWord true (BitVec.ofNat 7 (addr - s.cfg.base)) (wordOfLanes bytes)))
    else .next (s.undefinedAccess true)

/-- What an event does: a host access, a turn of the core, or the reset input (00_scope.md R10; 41_commands.md R103;
70_reset_and_hazards.md R157). -/
def State.handle (e : Event) (s : State) : Host.Outcome State Fault Refusal :=
  match e with
  | .host w => s.hostAccess w
  | .bus a => s.busAccess a
  | .coreTurn => .next s.coreStep
  | .hardReset => .next s.hardwareReset

/-- The next turn: the first event of the inbox, or, when nothing more is to come, the core's (70_reset_and_hazards.md
R165: "a pending core step is eventually taken"; log entry 4). -/
def State.takeTurn (s : State) : Host.Outcome State Fault Refusal :=
  match s.inbox with
  | [] => .next s.coreStep
  | e :: rest => State.handle e { s with inbox := rest }

end Sys2Proof.Machine
end

