-- ==== Sys2Proof/Machine/Step.lean ====
section
/-! DEFINITION. One step of the machine, and placing an instruction as the next one. -/

namespace Sys2Proof.Machine

/-- One step: one host access, one core step or one reset, indivisible (20_memory.md R67, R70). -/
def step (s : State) : Host.Outcome State Fault Refusal := s.takeTurn

/-- The state with the opcode table's word as the next host access (log entry 4): HUFFCORE fetches nothing, the host
delivers each instruction over the bus (10_state.md R12). -/
def State.withFetchWord (s : State) (nbits w : Nat) : State :=
  { s with inbox := .host (tableItem nbits w) :: s.inbox }

end Sys2Proof.Machine
end

