-- ==== Sys2Proof/Safety.lean ====
section
/-! DEFINITION. What claims about HUFFCORE are stated in: the invariants of its state, the end of a run, the events that
start a new one, the walk from a tree's root, and when two states look alike to the host. -/

namespace Sys2Proof.Machine

/-- All five internal memories are in canonical form. -/
def State.memoriesCanonical (s : State) : Bool :=
  Memory.wf s.ibuf && Memory.wf s.ftab && Memory.wf s.node && Memory.wf s.ctab && Memory.wf s.obuf

/-- STATUS.ERR is nonzero exactly in PHASE ERROR (10_state.md R25), where DONE = 1, nothing is pending and OUT_LEN = 0
(60_exceptions.md R145). -/
def State.errorConsistent (s : State) : Bool :=
  (s.err.isSome == (s.phase == .error))
    && (s.phase != .error || (s.done && s.pending.isNone && s.outLen == 0))

/-- A pending operation was accepted in the PHASE it needs, and its acceptance cleared DONE (41_commands.md R101, R102). -/
def State.pendingConsistent (s : State) : Bool :=
  match s.pending with
  | none => true
  | some op => s.phase == op.need && !s.done

/-- The counts stay within the capacities of a configuration that meets 00_scope.md R6 (10_state.md R27 to R33). -/
def State.withinCapacity (s : State) : Bool :=
  s.cfg.wf && decide (s.inLen.toNat ≤ s.cfg.maxLen) && decide (s.nsym.toNat ≤ s.cfg.maxSyms)
    && decide (s.nodeCount.toNat ≤ 2 * s.cfg.maxSyms - 1) && decide (s.outLen.toNat ≤ s.cfg.maxOut)
    && decide (s.pad.toNat ≤ 8)

/-- Every symbol of the input is below 2^SYM_W (00_scope.md R7, 10_state.md R49). -/
def State.symbolsInRange (s : State) : Bool := s.input.all fun x => decide (x.toNat < 2 ^ s.cfg.symW)

/-- FTAB holds COUNT's result for the input (42_frequency.md R108). -/
def State.countDone (s : State) : Bool := s.table == frequencyTable s.input

/-- NODE, NODE_COUNT and ROOT_FREQ hold BUILD's result for FTAB (43_tree_builder.md R111). -/
def State.buildDone (s : State) : Bool :=
  s.nsym != 0 && s.nodes == buildNodes (s.table.map FreqEntry.freq)
    && s.rootFreq == (Memory.read s.node (s.nodeCount.toNat - 1)).freq

/-- CTAB and CODE_MAXLEN hold GENTAB's result for NODE (44_encoding_table.md R121). -/
def State.gentabDone (s : State) : Bool :=
  s.codes == codeTable s.nodes s.nsym.toNat && s.codeMaxlen == BitVec.ofNat 32 (maxCodeLength s.codes)

/-- OBUF, OUT_LEN, BODY_BITS and PAD hold PACK's result for one of the padding modes (45_bit_packer.md R126). -/
def State.packDone (s : State) : Bool :=
  match encodeInput s.table s.codes s.input with
  | .error _ => false
  | .ok bits =>
    [false, true].any fun mode =>
      s.payload == streamBytes (packStream bits (padCount mode bits.length))
        && s.bodyBits == BitVec.ofNat 32 bits.length && s.pad == BitVec.ofNat 4 (padCount mode bits.length)

/-- BODY_BITS, PAD and OUT_LEN are 0, as before PACK (10_state.md R31 to R33). -/
def State.packUndone (s : State) : Bool := s.bodyBits == 0 && s.pad == 0 && s.outLen == 0

/-- The results each PHASE makes valid (10_state.md R24), and the results a count register that is not 0 vouches for, in
PHASE ERROR too (60_exceptions.md R146). -/
def State.resultsConsistent (s : State) : Bool :=
  (match s.phase with
    | .idle => s.nsym == 0 && s.nodeCount == 0 && s.rootFreq == 0 && s.codeMaxlen == 0 && s.packUndone
    | .counted => s.countDone && s.nodeCount == 0 && s.rootFreq == 0 && s.codeMaxlen == 0 && s.packUndone
    | .built => s.nodeCount != 0 && s.codeMaxlen == 0 && s.packUndone
    | .tabled => s.codeMaxlen != 0 && s.packUndone
    | .packed => s.codeMaxlen != 0 && s.outLen != 0
    | .error => true)
    && (s.nsym == 0 || s.countDone)
    && (s.nodeCount == 0 || (s.countDone && s.buildDone))
    && (s.codeMaxlen == 0 || (s.nodeCount != 0 && s.gentabDone))
    && (s.outLen == 0 || (s.codeMaxlen != 0 && s.packDone))

/-- The invariant of HUFFCORE. -/
def State.Inv (s : State) : Prop :=
  s.memoriesCanonical ∧ s.errorConsistent ∧ s.pendingConsistent ∧ s.withinCapacity ∧ s.symbolsInRange
    ∧ s.resultsConsistent

/-- The end of a run (70_reset_and_hazards.md R166). -/
def State.runEnded (s : State) : Bool := !s.busy && (s.phase == .packed || s.phase == .error)

/-- The events that start a new run: the reset input, and the exact CLEAR word written to CMD, as a command word, as a BOW
or over the bus (60_exceptions.md R147; 41_commands.md R105). -/
def Event.startsRun (cfg : Config) : Event → Bool
  | .hardReset => true
  | .host e => e == .cw 0x00000001#32 || e == .bow 0x9C00000001#40
  | .bus a => a == .write (cfg.base + 0x1C) [0x01#8, 0x00#8, 0x00#8, 0x00#8]
  | .coreTurn => false

/-- The node reached from node `v` along edge labels, 0 left and 1 right (00_scope.md R11, 43_tree_builder.md R114). -/
def walkTree (nodes : List Node) : Nat → Bits → Option Nat
  | v, [] => some v
  | v, b :: bs =>
    match nodes.getD v default with
    | .leaf _ => none
    | .internal _ l r => walkTree nodes (if b then r else l) bs

/-- Does node `x` stand in the working list when node `v` is made: it is below `v` and the child of no node below `v`
(43_tree_builder.md R111: each round removes the two nodes it joins and adds the new one)? -/
def inWorkingList (nodes : List Node) (v x : Nat) : Prop :=
  x < v ∧ ∀ u < v, ∀ f l r, nodes.getD u default = .internal f l r → x ≠ l ∧ x ≠ r

/-- Does node `x` come before node `y` in the working list: by frequency, and on a tie the older node first
(43_tree_builder.md R113, R115)? -/
def comesBefore (nodes : List Node) (x y : Nat) : Prop :=
  nodeKey nodes x < nodeKey nodes y ∨ (nodeKey nodes x = nodeKey nodes y ∧ x < y)

/-- Are `l` and `r` the first two nodes, in this order, of the working list node `v` is made from (43_tree_builder.md
R113)? -/
def mergesFirstTwo (nodes : List Node) (v l r : Nat) : Prop :=
  inWorkingList nodes v l ∧ inWorkingList nodes v r ∧ comesBefore nodes l r
    ∧ ∀ x, inWorkingList nodes v x → x ≠ l → x ≠ r → comesBefore nodes r x

/-- Two states that differ at most in memory entries no count register makes valid (10_state.md R58: "unspecified memory
contents are unobservable"). -/
def State.sameVisible (s t : State) : Prop :=
  t = { s with ibuf := t.ibuf, ftab := t.ftab, node := t.node, ctab := t.ctab, obuf := t.obuf }
    ∧ t.input = s.input ∧ t.table = s.table ∧ t.nodes = s.nodes
    ∧ (s.codeMaxlen ≠ 0 → t.codes = s.codes) ∧ t.payload = s.payload

end Sys2Proof.Machine
end

