-- ==== Sys2Proof/Certificates/Slice0/Obligations.lean ====
section
/-! DEFINITION. The statements about HUFFCORE for the provers. Each docstring names the rule of the spec it states. Where a
statement rests on a choice of the model, it names the log entry. The value a read returns is `State.rdata` (log entry 3). -/

open Sys2Proof Sys2Proof.Machine

/-! ### Encoding (30_encoding.md) -/

/-- 30_encoding.md R78 to R80: no bit of an encoding is dropped. Decoding the word of a well-formed instruction gives that
instruction back, with its operand. -/
def Obligations.DecodeEncodeRoundTrip : Prop :=
  ∀ i : Instr, i.wellFormed = true → decode (encode i) = .ok i

/-- 30_encoding.md R78 to R81: the other direction. What a word decodes to is well-formed and encodes to that word, but that
the DATA of a read, which is ignored, is written as 0. -/
def Obligations.EncodeDecodedWord : Prop :=
  (∀ (w : BitVec 40) (i : Instr), decode (.bow w) = .ok i →
    i.wellFormed = true ∧
      encode i = .bow (bowWord (bowWrite w) (bowOffset w) (if bowWrite w then bowData w else 0)))
  ∧ ∀ (cw : Word) (i : Instr), decode (.cw cw) = .ok i → i.wellFormed = true ∧ encode i = .cw cw

/-- 30_encoding.md R88: the encoding examples, and "the top byte is (W << 7) | OFF". -/
def Obligations.EncodingExamples : Prop :=
  (encode (.wrCmd 0x06) = .bow 0x9C00000006#40 ∧ decode (.bow 0x9C00000006#40) = .ok (.wrCmd 0x06))
  ∧ (encode (.wrInData 0x61) = .bow 0xA400000061#40 ∧ decode (.bow 0xA400000061#40) = .ok (.wrInData 0x61))
  ∧ (encode .rdOutData = .bow 0x4800000000#40 ∧ decode (.bow 0x4800000000#40) = .ok .rdOutData)
  ∧ (encode .rdStatus = .bow 0x2000000000#40 ∧ decode (.bow 0x2000000000#40) = .ok .rdStatus)
  ∧ (encode (.wrCtrl 0x3) = .bow 0x9800000003#40 ∧ decode (.bow 0x9800000003#40) = .ok (.wrCtrl 0x3))
  ∧ ∀ (write : Bool) (off : BitVec 7) (d : Word),
      (bowWord write off d).toNat / 2 ^ 32 = (if write then 128 else 0) + off.toNat

/-- 30_encoding.md R78, R80: a BOW denotes an instruction exactly when its offset is a multiple of 4, and otherwise it is
the misaligned access of its W and OFF. -/
def Obligations.BowDecodesIffAligned : Prop :=
  ∀ w : BitVec 40,
    ((∃ i, decode (.bow w) = .ok i) ↔ (bowOffset w).toNat % 4 = 0)
    ∧ ((bowOffset w).toNat % 4 ≠ 0 → decode (.bow w) = .error (.misaligned (bowWrite w) (bowOffset w)))

/-- 30_encoding.md R79, R81: "A CW is legal when RSVD = 0 and OPC ≤ 0x06; otherwise it is illegal". OPC is bits [7:0] and
RSVD bits [31:8]. -/
def Obligations.CommandWordLegality : Prop :=
  ∀ cw : Word, decodeCw cw = .illegalCw cw ↔ ¬ (cw.extractLsb' 8 24 = 0 ∧ (cw.extractLsb' 0 8).toNat ≤ 0x06)

/-! ### Steps and the bus (20_memory.md, 41_commands.md R103) -/

/-- A host access whose word decodes to `i` runs `i` on the state with that access taken from the inbox. The inbox is the
model's schedule (log entry 4). -/
def Obligations.StepRunsDecodedInstruction : Prop :=
  ∀ (s : State) (e : Encoded) (rest : List Event) (i : Instr), s.inbox = .host e :: rest → decode e = .ok i →
    step s = exec i { s with inbox := rest }

/-- 20_memory.md R61: an access inside the window that is not an aligned 32-bit one is ignored if a write and returns 0 if
a read, "with no side effect on any state". A BOW with OFF[1:0] ≠ 0 is one (30_encoding.md R78). Which accesses are inside is
told by their first address, straddling ones included (the model's choice, log entry 10). -/
def Obligations.UndefinedAccessesHaveNoEffect : Prop :=
  ∀ (s : State) (rest : List Event),
    (∀ addr size, s.inbox = .bus (.read addr size) :: rest → s.cfg.base ≤ addr → addr < s.cfg.base + 128 →
      ¬ (size = 4 ∧ (addr - s.cfg.base) % 4 = 0) → step s = .next { s with inbox := rest, rdata := 0 })
    ∧ (∀ addr bytes, s.inbox = .bus (.write addr bytes) :: rest → s.cfg.base ≤ addr → addr < s.cfg.base + 128 →
      ¬ (bytes.length = 4 ∧ (addr - s.cfg.base) % 4 = 0) → step s = .next { s with inbox := rest })
    ∧ (∀ w, s.inbox = .host (.bow w) :: rest → (bowOffset w).toNat % 4 ≠ 0 →
      step s = .next { s with inbox := rest, rdata := if bowWrite w then s.rdata else 0 })

/-- 20_memory.md R59, R61, R63 and 30_encoding.md R78: an aligned 32-bit access in the window is the BOW of its offset, a
write carrying the register value in little-endian lanes; "addresses outside the window are not decoded by HUFFCORE". An
access is placed by its first address (the model's choice, log entry 10). -/
def Obligations.BusAccessesByAddress : Prop :=
  ∀ (s : State) (rest : List Event),
    (∀ off : BitVec 7, off.toNat % 4 = 0 →
      (s.inbox = .bus (.read (s.cfg.base + off.toNat) 4) :: rest →
        step s = step { s with inbox := .host (.bow (bowWord false off 0)) :: rest })
      ∧ (∀ v : Word, s.inbox = .bus (.write (s.cfg.base + off.toNat)
            [v.extractLsb' 0 8, v.extractLsb' 8 8, v.extractLsb' 16 8, v.extractLsb' 24 8]) :: rest →
        step s = step { s with inbox := .host (.bow (bowWord true off v)) :: rest }))
    ∧ (∀ addr : Nat, (addr < s.cfg.base ∨ s.cfg.base + 128 ≤ addr) →
      (∀ size, s.inbox = .bus (.read addr size) :: rest → step s = .next { s with inbox := rest })
      ∧ (∀ bytes, s.inbox = .bus (.write addr bytes) :: rest → step s = .next { s with inbox := rest }))

/-- 41_commands.md R103, 70_reset_and_hazards.md R165: the core's turn is the core step, which is "enabled exactly when
STATUS.BUSY = 1", and an accepted operation completes after a finite time. When the core's turn comes is the model's
schedule (log entry 4): at a `coreTurn` event, and whenever no event is left; so once the events of the inbox have happened,
one more step leaves nothing pending. -/
def Obligations.PendingOperationIsPerformed : Prop :=
  ∀ s : State,
    (s.inbox = [] → step s = .next s.coreStep)
    ∧ (∀ rest, s.inbox = .coreTurn :: rest → step s = .next (State.coreStep { s with inbox := rest }))
    ∧ (s.busy = false → s.coreStep = s)
    ∧ ∃ t : State, Sys2Proof.core.run (s.inbox.length + 1) s = .next t ∧ t.inbox = [] ∧ t.busy = false

/-- 70_reset_and_hazards.md R157 and the reset column of 10_state.md R58, from every state and also while BUSY = 1. -/
def Obligations.HardwareResetFromEveryState : Prop :=
  ∀ (s : State) (rest : List Event), s.inbox = .hardReset :: rest →
    ∃ t, step s = .next t
      ∧ t.ie = false ∧ t.padMode = false ∧ t.busy = false ∧ t.done = false ∧ t.busyErr = false
      ∧ t.phase = .idle ∧ t.err = none ∧ t.pending = none ∧ t.irq = false
      ∧ t.inLen = 0 ∧ t.nsym = 0 ∧ t.nodeCount = 0 ∧ t.rootFreq = 0
      ∧ t.bodyBits = 0 ∧ t.pad = 0 ∧ t.outLen = 0 ∧ t.codeMaxlen = 0
      ∧ t.outPtr = 0 ∧ t.tabIndex = 0 ∧ t.tabWsel = 0 ∧ t.nodeIndex = 0
      ∧ t.cfg = s.cfg ∧ t.inbox = rest

/-! ### Reads (10_state.md, 40_host_access.md R89 to R91) -/

/-- 10_state.md R15 to R20: the hardwired registers, read in every state, also while BUSY = 1. -/
def Obligations.IdentificationReads : Prop :=
  ∀ s : State,
    exec .rdId s = .next { s with rdata := 0x48554646 }
    ∧ exec .rdVersion s = .next { s with rdata := 0x00000001 }
    ∧ exec .rdParam1 s = .next { s with rdata := BitVec.ofNat 32 s.cfg.maxSyms }
    ∧ exec .rdParam2 s = .next { s with rdata := BitVec.ofNat 32 s.cfg.maxLen }
    ∧ exec .rdParam3 s = .next { s with rdata := BitVec.ofNat 32 s.cfg.maxOut }
    ∧ ∃ v : Word, exec .rdParam0 s = .next { s with rdata := v }
        ∧ (s.cfg.wf = true → (v.extractLsb' 0 8).toNat = s.cfg.symW
            ∧ (BitVec.ofNat 32 s.cfg.maxSyms).toNat = s.cfg.maxSyms
            ∧ (BitVec.ofNat 32 s.cfg.maxLen).toNat = s.cfg.maxLen
            ∧ (BitVec.ofNat 32 s.cfg.maxOut).toNat = s.cfg.maxOut)
        ∧ v.extractLsb' 8 8 = 32 ∧ v.extractLsb' 16 16 = 0

/-- 10_state.md R14, R21 to R25, R56: the fields of STATUS and CTRL, and CMD, which reads 0; in every state, also while
BUSY = 1. -/
def Obligations.StatusAndControlReads : Prop :=
  ∀ s : State,
    (∃ v : Word, exec .rdStatus s = .next { s with rdata := v }
      ∧ v.getLsbD 0 = s.pending.isSome
      ∧ v.getLsbD 1 = s.done
      ∧ v.getLsbD 2 = s.busyErr
      ∧ v.getLsbD 3 = (s.ie && s.done)
      ∧ v.extractLsb' 4 3 = (match s.phase with
          | .idle => 0 | .counted => 1 | .built => 2 | .tabled => 3 | .packed => 4 | .error => 7)
      ∧ v.getLsbD 7 = false
      ∧ v.extractLsb' 8 4 = (match s.err with
          | none => 0 | some .emptyAlphabet => 1 | some .unknownSymbol => 2 | some .misalignedBitstream => 3
          | some .sequence => 4 | some .inputOverflow => 5 | some .symbolRange => 6 | some .capacityExceeded => 7
          | some .outputOverflow => 8 | some .illegalCommand => 9)
      ∧ v.extractLsb' 12 20 = 0)
    ∧ (∃ v : Word, exec .rdCtrl s = .next { s with rdata := v }
      ∧ v.getLsbD 0 = s.ie ∧ v.getLsbD 1 = s.padMode ∧ v.extractLsb' 2 30 = 0)
    ∧ exec .rdCmd s = .next { s with rdata := 0 }

/-- 40_host_access.md R90: "While STATUS.BUSY = 1 a read of any offset above 0x20 returns 0 and has no side effect". The
offsets up to 0x20 read the values they read while nothing is pending, but for STATUS.BUSY itself. -/
def Obligations.ReadsWhileBusy : Prop :=
  ∀ s : State, s.busy = true →
    (∀ i ∈ [Instr.rdInData, .rdInLen, .rdNsym, .rdNodeCount, .rdRootFreq, .rdBodyBits, .rdPad, .rdOutLen, .rdOutPtr,
        .rdOutData, .rdTabIndex, .rdTabSym, .rdTabFreq, .rdTabClen, .rdTabWsel, .rdTabCodew, .rdNodeIndex, .rdNodeInfo,
        .rdNodeFreq, .rdNodeLeft, .rdNodeRight, .rdCodeMaxlen, .rdReserved7c],
      exec i s = .next { s with rdata := 0 })
    ∧ (∀ i ∈ [Instr.rdId, .rdVersion, .rdParam0, .rdParam1, .rdParam2, .rdParam3, .rdCtrl, .rdCmd],
      ∃ v, exec i s = .next { s with rdata := v }
        ∧ exec i { s with pending := none } = .next { s with pending := none, rdata := v })
    ∧ ∃ v : Word, exec .rdStatus s = .next { s with rdata := v }
        ∧ exec .rdStatus { s with pending := none } = .next { s with pending := none, rdata := v - 1 }

/-- 40_host_access.md R89: while BUSY = 0 a plain read returns the register's value and writes nothing else. These are the
registers that hold their value themselves (10_state.md R27 to R34, R36, R40, R42, R47). IN_DATA and offset 0x7C read 0
(R26, R48). -/
def Obligations.PlainRegisterReads : Prop :=
  ∀ s : State, s.busy = false →
    exec .rdInLen s = .next { s with rdata := s.inLen }
    ∧ exec .rdNsym s = .next { s with rdata := s.nsym }
    ∧ exec .rdNodeCount s = .next { s with rdata := s.nodeCount }
    ∧ exec .rdRootFreq s = .next { s with rdata := s.rootFreq }
    ∧ exec .rdBodyBits s = .next { s with rdata := s.bodyBits }
    ∧ exec .rdPad s = .next { s with rdata := s.pad.setWidth 32 }
    ∧ exec .rdOutLen s = .next { s with rdata := s.outLen }
    ∧ exec .rdOutPtr s = .next { s with rdata := s.outPtr }
    ∧ exec .rdTabIndex s = .next { s with rdata := s.tabIndex }
    ∧ exec .rdTabWsel s = .next { s with rdata := s.tabWsel }
    ∧ exec .rdNodeIndex s = .next { s with rdata := s.nodeIndex }
    ∧ exec .rdCodeMaxlen s = .next { s with rdata := s.codeMaxlen }
    ∧ exec .rdInData s = .next { s with rdata := 0 }
    ∧ exec .rdReserved7c s = .next { s with rdata := 0 }

/-- 40_host_access.md R91: RD OUT_DATA (offset 0x48) pops one payload byte. OUT_PTR does not wrap, and in PHASE ERROR every
read returns 0. -/
def Obligations.PopReturnsByteAndAdvances : Prop :=
  (∀ d : Word, decode (.bow (bowWord false 0x48 d)) = .ok .rdOutData)
  ∧ ∀ s : State,
    (s.busy = true → exec .rdOutData s = .next { s with rdata := 0 })
    ∧ (s.busy = false → s.outPtr.toNat < s.outLen.toNat →
        exec .rdOutData s = .next { s with
          rdata := (Memory.read s.obuf s.outPtr.toNat).setWidth 32
          outPtr := s.outPtr + 1 }
        ∧ (s.outPtr + 1).toNat = s.outPtr.toNat + 1)
    ∧ (s.busy = false → s.outLen.toNat ≤ s.outPtr.toNat → exec .rdOutData s = .next { s with rdata := 0 })
    ∧ (s.errorConsistent = true → s.phase = .error → exec .rdOutData s = .next { s with rdata := 0 })

/-- 10_state.md R37 to R39: TAB_SYM, TAB_FREQ and TAB_CLEN, while BUSY = 0. -/
def Obligations.TableReads : Prop :=
  ∀ s : State, s.busy = false →
    exec .rdTabSym s = .next { s with
      rdata := if s.tabIndex.toNat < s.nsym.toNat then (Memory.read s.ftab s.tabIndex.toNat).sym else 0 }
    ∧ exec .rdTabFreq s = .next { s with
      rdata := if s.tabIndex.toNat < s.nsym.toNat then (Memory.read s.ftab s.tabIndex.toNat).freq else 0 }
    ∧ exec .rdTabClen s = .next { s with
      rdata := (if s.tabIndex.toNat < s.nsym.toNat ∧ s.codeMaxlen ≠ 0
        then BitVec.ofNat 32 (Memory.read s.ctab s.tabIndex.toNat).length else 0) }

/-- 10_state.md R41: bit (31 − j) of TAB_CODEW is bit 32·w + j of the selected code, 0 beyond its end, and the whole value
is 0 when the index selects nothing or no code is valid. -/
def Obligations.CodeWordReadBits : Prop :=
  ∀ s : State, s.busy = false → ∃ v : Word, exec .rdTabCodew s = .next { s with rdata := v }
    ∧ (s.tabIndex.toNat < s.nsym.toNat → s.codeMaxlen ≠ 0 → ∀ j < 32,
        v.getLsbD (31 - j) = ((Memory.read s.ctab s.tabIndex.toNat)[32 * s.tabWsel.toNat + j]?.getD false))
    ∧ (¬ (s.tabIndex.toNat < s.nsym.toNat ∧ s.codeMaxlen ≠ 0) → v = 0)

/-- 10_state.md R43, R51: NODE_INFO's KIND, LABEL and ROOT bits. That LABEL looks for the parent among the valid nodes only is
the model's reading (log entry 11). -/
def Obligations.NodeInfoReadBits : Prop :=
  ∀ s : State, s.busy = false → ∃ v : Word, exec .rdNodeInfo s = .next { s with rdata := v }
    ∧ (s.nodeIndex.toNat < s.nodeCount.toNat →
        (v.getLsbD 0 = true ↔ ∃ f l r, Memory.read s.node s.nodeIndex.toNat = .internal f l r)
        ∧ (v.getLsbD 1 = true ↔
            ∃ u < s.nodeCount.toNat, ∃ f l, Memory.read s.node u = .internal f l s.nodeIndex.toNat)
        ∧ (v.getLsbD 2 = true ↔ s.nodeIndex.toNat = s.nodeCount.toNat - 1)
        ∧ v.extractLsb' 3 29 = 0)
    ∧ (s.nodeCount.toNat ≤ s.nodeIndex.toNat → v = 0)

/-- 10_state.md R44 to R46: NODE_FREQ, NODE_LEFT and NODE_RIGHT, while BUSY = 0. -/
def Obligations.NodeReads : Prop :=
  ∀ s : State, s.busy = false →
    (s.nodeCount.toNat ≤ s.nodeIndex.toNat → ∀ i ∈ [Instr.rdNodeFreq, .rdNodeLeft, .rdNodeRight],
      exec i s = .next { s with rdata := 0 })
    ∧ (s.nodeIndex.toNat < s.nodeCount.toNat →
      (∀ f, Memory.read s.node s.nodeIndex.toNat = .leaf f →
        exec .rdNodeFreq s = .next { s with rdata := f }
        ∧ exec .rdNodeLeft s = .next { s with rdata := 0 } ∧ exec .rdNodeRight s = .next { s with rdata := 0 })
      ∧ (∀ f l r, Memory.read s.node s.nodeIndex.toNat = .internal f l r →
        exec .rdNodeFreq s = .next { s with rdata := f }
        ∧ exec .rdNodeLeft s = .next { s with rdata := BitVec.ofNat 32 l }
        ∧ exec .rdNodeRight s = .next { s with rdata := BitVec.ofNat 32 r }))

/-! ### Writes (40_host_access.md R92 to R100) -/

/-- 40_host_access.md R99: a write to a read-only or reserved offset changes no state, whether or not BUSY = 1. These are the
writes at every offset but 0x18, 0x1C, 0x24, 0x44, 0x4C, 0x5C and 0x64. -/
def Obligations.WritesToReadOnlyIgnored : Prop :=
  (∀ (s : State) (v : Word),
    ∀ i ∈ [Instr.wrId v, .wrVersion v, .wrParam0 v, .wrParam1 v, .wrParam2 v, .wrParam3 v, .wrStatus v, .wrInLen v,
      .wrNsym v, .wrNodeCount v, .wrRootFreq v, .wrBodyBits v, .wrPad v, .wrOutLen v, .wrOutData v, .wrTabSym v,
      .wrTabFreq v, .wrTabClen v, .wrTabCodew v, .wrNodeInfo v, .wrNodeFreq v, .wrNodeLeft v, .wrNodeRight v,
      .wrCodeMaxlen v, .wrReserved7c v],
    exec i s = .next s)
  ∧ ∀ (off : BitVec 7) (v : Word), off.toNat % 4 = 0 → off ∉ [0x18#7, 0x1C#7, 0x24#7, 0x44#7, 0x4C#7, 0x5C#7, 0x64#7] →
      ∃ i, decode (.bow (bowWord true off v)) = .ok i ∧ ∀ s : State, exec i s = .next s

/-- 40_host_access.md R92: WR CTRL (offset 0x18), in every PHASE. IRQ follows at once. While BUSY = 1 it only sets
BUSYERR. -/
def Obligations.CtrlWrite : Prop :=
  (∀ v : Word, decode (.bow (bowWord true 0x18 v)) = .ok (.wrCtrl v))
  ∧ ∀ (s : State) (v : Word),
    (s.busy = true → exec (.wrCtrl v) s = .next { s with busyErr := true })
    ∧ (s.busy = false → ∃ t, exec (.wrCtrl v) s = .next t
      ∧ t = { s with ie := v.getLsbD 0, padMode := v.getLsbD 1 } ∧ t.irq = (v.getLsbD 0 && s.done))

/-- 40_host_access.md R95 to R98: the pointer and index registers take any word, in every PHASE, while BUSY = 0. -/
def Obligations.IndexAndPointerWrites : Prop :=
  ∀ (s : State) (v : Word), s.busy = false →
    exec (.wrOutPtr v) s = .next { s with outPtr := v }
    ∧ exec (.wrTabIndex v) s = .next { s with tabIndex := v }
    ∧ exec (.wrTabWsel v) s = .next { s with tabWsel := v }
    ∧ exec (.wrNodeIndex v) s = .next { s with nodeIndex := v }

/-- 40_host_access.md R100: a guarded write while BUSY = 1 "changes nothing except STATUS.BUSYERR <- 1", and the pending
operation "is later performed as if the write had not been made". -/
def Obligations.WritesWhileBusyOnlyMark : Prop :=
  ∀ (s : State) (v : Word), s.busy = true →
    (∀ i ∈ [Instr.wrInData v, .wrCtrl v, .wrOutPtr v, .wrTabIndex v, .wrTabWsel v, .wrNodeIndex v, .nop, .count,
        .build, .gentab, .pack, .run, .illegalCw v],
      exec i s = .next { s with busyErr := true })
    ∧ (v ≠ 0x00000001 → exec (.wrCmd v) s = .next { s with busyErr := true })
    ∧ State.coreStep { s with busyErr := true } = { s.coreStep with busyErr := true }

/-- 40_host_access.md R94: a push, in all its branches. The memory's canonical form is an invariant of the model
(Obligations.MemoriesStayCanonical). -/
def Obligations.PushStoresSymbol : Prop :=
  ∀ (s : State) (v : Word),
    (s.busy = true → exec (.wrInData v) s = .next { s with busyErr := true })
    ∧ (s.busy = false → s.phase = .error → exec (.wrInData v) s = .next s)
    ∧ (s.busy = false → s.phase ≠ .error → s.phase ≠ .idle → exec (.wrInData v) s =
        .next { s with phase := .error, err := some .sequence, done := true, outLen := 0 })
    ∧ (s.busy = false → s.phase = .idle → s.cfg.symW < 32 → 2 ^ s.cfg.symW ≤ v.toNat → exec (.wrInData v) s =
        .next { s with phase := .error, err := some .symbolRange, done := true, outLen := 0 })
    ∧ (s.busy = false → s.phase = .idle → (s.cfg.symW < 32 → v.toNat < 2 ^ s.cfg.symW) →
        (s.inLen.toNat = s.cfg.maxLen → exec (.wrInData v) s =
          .next { s with phase := .error, err := some .inputOverflow, done := true, outLen := 0 })
        ∧ (s.inLen.toNat ≠ s.cfg.maxLen → Memory.wf s.ibuf = true →
          ∃ t, exec (.wrInData v) s = .next t
            ∧ t = { s with ibuf := t.ibuf, inLen := s.inLen + 1 }
            ∧ Memory.read t.ibuf s.inLen.toNat = v
            ∧ ∀ k ≠ s.inLen.toNat, Memory.read t.ibuf k = Memory.read s.ibuf k))

/-! ### Commands (41_commands.md R101 to R107) -/

/-- 41_commands.md R101: what a write to CMD does, branch by branch. -/
def Obligations.CommandAcceptance : Prop :=
  ∀ (s : State) (cw : Word),
    (s.busy = true → cw ≠ 0x00000001 → exec (.wrCmd cw) s = .next { s with busyErr := true })
    ∧ (cw = 0x00000001 → exec (.wrCmd cw) s = exec .clear s)
    ∧ (s.busy = false → 0x06 < cw.toNat → s.phase = .error → exec (.wrCmd cw) s = .next s)
    ∧ (s.busy = false → 0x06 < cw.toNat → s.phase ≠ .error → exec (.wrCmd cw) s =
        .next { s with phase := .error, err := some .illegalCommand, done := true, outLen := 0 })
    ∧ (s.busy = false → cw = 0x00000000 → exec (.wrCmd cw) s = .next s)
    ∧ ∀ p ∈ [((0x02 : Word), Operation.count, Phase.idle), (0x03, .build, .counted), (0x04, .gentab, .built),
          (0x05, .pack, .tabled), (0x06, .run, .idle)],
        s.busy = false → cw = p.1 →
          (s.phase = .error → exec (.wrCmd cw) s = .next s)
          ∧ (s.phase ≠ .error → s.phase ≠ p.2.2 → exec (.wrCmd cw) s =
              .next { s with phase := .error, err := some .sequence, done := true, outLen := 0 })
          ∧ (s.phase = p.2.2 → exec (.wrCmd cw) s = .next { s with done := false, pending := some p.2.1 })

/-- 40_host_access.md R93 and 41_commands.md R101: writing a command word to CMD does what the command it decodes to
does. -/
def Obligations.CmdWriteActsAsItsCommand : Prop :=
  ∀ (s : State) (cw : Word), exec (.wrCmd cw) s = exec (decodeCw cw) s

/-- 41_commands.md R101, R102: an operation command is accepted in the PHASE it needs: DONE falls, the operation is pending,
and nothing else changes. -/
def Obligations.OperationsAreAccepted : Prop :=
  ∀ s : State, s.busy = false →
    ∀ p ∈ [(Instr.count, Operation.count, Phase.idle), (.build, .build, .counted), (.gentab, .gentab, .built),
        (.pack, .pack, .tabled), (.run, .run, .idle)],
      s.phase = p.2.2 → exec p.1 s = .next { s with done := false, pending := some p.2.1 }

/-- 41_commands.md R104: NOP. -/
def Obligations.NopChangesNothing : Prop :=
  decode (.cw 0x00000000) = .ok .nop
  ∧ ∀ s : State, (s.busy = false → exec .nop s = .next s)
    ∧ (s.busy = true → exec .nop s = .next { s with busyErr := true })

/-- 41_commands.md R105: CLEAR, in every PHASE and also while BUSY = 1. CTRL and the memories are left as they are. -/
def Obligations.ClearStartsNewRun : Prop :=
  (∀ cw : Word, decode (.cw cw) = .ok .clear ↔ cw = 0x00000001)
  ∧ ∀ s : State, ∃ t, exec .clear s = .next t
    ∧ t = { s with
        pending := none, done := false, busyErr := false, phase := .idle, err := none
        inLen := 0, nsym := 0, nodeCount := 0, rootFreq := 0, bodyBits := 0, pad := 0, outLen := 0, codeMaxlen := 0
        outPtr := 0, tabIndex := 0, tabWsel := 0, nodeIndex := 0 }
    ∧ t.busy = false ∧ t.irq = false

/-- 60_exceptions.md R144: a command word with RSVD ≠ 0 or OPC ≥ 0x07 while BUSY = 0 and PHASE ≠ ERROR raises IllegalCommand;
error entry makes the four writes of R145 and no other. -/
def Obligations.IllegalCommandEntersError : Prop :=
  ∀ (s : State) (cw : Word), s.busy = false → s.phase ≠ .error →
    cw.extractLsb' 8 24 ≠ 0 ∨ 0x07 ≤ (cw.extractLsb' 0 8).toNat →
    decode (.cw cw) = .ok (.illegalCw cw)
    ∧ exec (.illegalCw cw) s = .next { s with phase := .error, err := some .illegalCommand, done := true, outLen := 0 }
    ∧ exec (.wrCmd cw) s = exec (.illegalCw cw) s

/-- 60_exceptions.md R146: in PHASE ERROR, while nothing is pending, every operation command, illegal command word and push
is ignored without any state change. -/
def Obligations.ErrorStateIgnoresOperations : Prop :=
  ∀ (s : State) (v : Word), s.phase = .error → s.busy = false →
    ∀ i ∈ [Instr.count, .build, .gentab, .pack, .run, .illegalCw v, .wrInData v], exec i s = .next s

/-- 60_exceptions.md R139: an operation command in a PHASE other than the one it needs, or a push in a PHASE other than IDLE,
while PHASE ≠ ERROR and BUSY = 0, raises Sequence. -/
def Obligations.OutOfOrderIsSequenceError : Prop :=
  ∀ (s : State) (v : Word), s.busy = false → s.phase ≠ .error →
    ∀ p ∈ [(Instr.count, Phase.idle), (.build, .counted), (.gentab, .built), (.pack, .tabled), (.run, .idle),
        (.wrInData v, .idle)],
      s.phase ≠ p.2 →
        exec p.1 s = .next { s with phase := .error, err := some .sequence, done := true, outLen := 0 }

/-- 60_exceptions.md R147: "only CLEAR or hardware reset leaves PHASE ERROR; both go to PHASE IDLE with ERR = 0 and
DONE = 0 and start a new run". -/
def Obligations.OnlyClearOrResetLeavesError : Prop :=
  (∀ s t : State, s.errorConsistent = true → s.phase = .error → step s = .next t → t.phase ≠ .error ∨ t.err ≠ s.err →
    ∃ e rest, s.inbox = e :: rest ∧ e.startsRun s.cfg = true)
  ∧ (∀ (s : State) (e : Event) (rest : List Event), s.inbox = e :: rest →
      e.startsRun s.cfg = true →
      ∃ t, step s = .next t ∧ t.phase = .idle ∧ t.err = none ∧ t.done = false ∧ t.inLen = 0)

/-- 60_exceptions.md R148: "BUSYERR stays 1 until CLEAR or reset". -/
def Obligations.BusyErrStaysUntilNewRun : Prop :=
  ∀ s t : State, s.busyErr = true → step s = .next t → t.busyErr = false →
    ∃ e rest, s.inbox = e :: rest ∧ e.startsRun s.cfg = true

/-- 60_exceptions.md R150, R151: irq falls only by masking it in CTRL, by the acceptance of an operation command, or by
CLEAR or reset. -/
def Obligations.IrqFallsOnlyAsStated : Prop :=
  ∀ s t : State, s.irq = true → step s = .next t → t.irq = false →
    (t.ie = false ∧ t.done = true)
    ∨ (s.busy = false ∧ t.busy = true ∧ t.done = false)
    ∨ (∃ e rest, s.inbox = e :: rest ∧ e.startsRun s.cfg = true)

/-- 10_state.md R15 to R20, 00_scope.md R6: the parameters are hardwired, no step changes them. -/
def Obligations.ParametersAreHardwired : Prop := ∀ s t : State, step s = .next t → t.cfg = s.cfg

/-! ### The core's operations (41_commands.md R103 to 45_bit_packer.md) -/

/-- 41_commands.md R103, R107 and 60_exceptions.md R145: a core step ends with nothing pending and DONE = 1, either in the
PHASE its operation leaves with ERR as it was, or in the error state; an operation of one stage that fails changes
nothing else. -/
def Obligations.CoreStepCompletesOrFails : Prop :=
  ∀ (s : State) (op : Operation), s.pending = some op →
    s.coreStep.pending = none ∧ s.coreStep.done = true
    ∧ ((s.coreStep.phase = op.next ∧ s.coreStep.err = s.err)
      ∨ ∃ e, s.coreStep.phase = .error ∧ s.coreStep.err = some e ∧ s.coreStep.outLen = 0
          ∧ (op ≠ .run → s.coreStep =
              { s with pending := none, phase := .error, err := some e, done := true, outLen := 0 }))

/-- 42_frequency.md R108 to R110: COUNT accepted in PHASE IDLE, then its core step, when the input has at most MAX_SYMS
distinct symbols. FTAB lists each distinct symbol once with its number of occurrences, ordered by frequency and then by
symbol; the frequencies sum to IN_LEN; nothing but FTAB, NSYM, PHASE, DONE and PENDING changes. -/
def Obligations.CountMakesOrderedTable : Prop :=
  ∀ s : State, s.busy = false → s.phase = .idle → Memory.wf s.ftab = true → s.input.toFinset.card ≤ s.cfg.maxSyms →
    ∃ a t, exec .count s = .next a ∧ a = { s with done := false, pending := some .count } ∧ t = a.coreStep
      ∧ t = { s with ftab := t.ftab, nsym := t.nsym, phase := .counted, done := true, pending := none }
      ∧ t.nsym.toNat = s.input.toFinset.card
      ∧ (∀ i < t.nsym.toNat, (Memory.read t.ftab i).sym ∈ s.input
          ∧ (Memory.read t.ftab i).freq.toNat = s.input.count (Memory.read t.ftab i).sym)
      ∧ (∀ x ∈ s.input, ∃ i < t.nsym.toNat, (Memory.read t.ftab i).sym = x)
      ∧ (∀ i j, i < j → j < t.nsym.toNat →
          (Memory.read t.ftab i).freq.toNat < (Memory.read t.ftab j).freq.toNat
          ∨ ((Memory.read t.ftab i).freq = (Memory.read t.ftab j).freq
              ∧ (Memory.read t.ftab i).sym.toNat < (Memory.read t.ftab j).sym.toNat))
      ∧ ((List.range t.nsym.toNat).map fun i => (Memory.read t.ftab i).freq.toNat).sum = s.inLen.toNat
      ∧ (∀ k, t.nsym.toNat ≤ k → Memory.read t.ftab k = Memory.read s.ftab k)

/-- 43_tree_builder.md R119: on a working list sorted by frequency the pair selected is its first two nodes in order, and
the stable re-sort is the insertion of the new node after the last node whose frequency is not above its own. -/
def Obligations.SortedMergeSelectsFirstTwo : Prop :=
  ∀ (nodes : List Node) (a b : Nat) (rest : List Nat),
    (a :: b :: rest).Pairwise (fun x y => nodeKey nodes x ≤ nodeKey nodes y) →
    selectPair nodes (a :: b :: rest) = some ((a, b), rest)
    ∧ ∀ x : Nat, stableSortBy (nodeKey nodes) (rest ++ [x]) =
        rest.takeWhile (fun y => decide (nodeKey nodes y ≤ nodeKey nodes x))
          ++ x :: rest.dropWhile (fun y => decide (nodeKey nodes y ≤ nodeKey nodes x))

/-- 43_tree_builder.md R111 to R117, R120: BUILD accepted in PHASE COUNTED, then its core step, when FTAB is not empty. The
first NSYM nodes are FTAB's leaves, the others internal over two earlier nodes with the sum of their frequencies. Each
joins the first two nodes of the working list it is made from: least by frequency, the older first on a tie, the first
one left (`mergesFirstTwo`; it holds in whatever order FTAB stands, that of 42_frequency.md R109 included). Every node but
the last is the child of exactly one; the last holds the sum of all frequencies. Nothing but NODE, NODE_COUNT, ROOT_FREQ,
PHASE, DONE and PENDING changes. -/
def Obligations.BuildMakesStrictBinaryTree : Prop :=
  ∀ s : State, s.busy = false → s.phase = .counted → Memory.wf s.node = true →
    1 ≤ s.nsym.toNat → s.nsym.toNat ≤ 2 ^ 31 →
    ∃ a t, exec .build s = .next a ∧ a = { s with done := false, pending := some .build } ∧ t = a.coreStep
      ∧ t = { s with
          node := t.node, nodeCount := t.nodeCount, rootFreq := t.rootFreq
          phase := .built, done := true, pending := none }
      ∧ t.nodeCount.toNat = 2 * s.nsym.toNat - 1
      ∧ (∀ v < s.nsym.toNat, Memory.read t.node v = .leaf (Memory.read s.ftab v).freq)
      ∧ (∀ v, s.nsym.toNat ≤ v → v < t.nodeCount.toNat → ∃ l r, l < v ∧ r < v ∧ l ≠ r
          ∧ Memory.read t.node v =
              .internal ((Memory.read t.node l).freq + (Memory.read t.node r).freq) l r
          ∧ (Memory.read t.node l).freq.toNat ≤ (Memory.read t.node r).freq.toNat
          ∧ mergesFirstTwo t.nodes v l r)
      ∧ (∀ v, v + 1 < t.nodeCount.toNat → ∃! u, u < t.nodeCount.toNat ∧ ∃ f l r,
          Memory.read t.node u = .internal f l r ∧ (l = v ∨ r = v))
      ∧ t.rootFreq = (Memory.read t.node (t.nodeCount.toNat - 1)).freq
      ∧ t.rootFreq = (s.table.map FreqEntry.freq).sum
      ∧ (∀ k, t.nodeCount.toNat ≤ k → Memory.read t.node k = Memory.read s.node k)

/-- 60_exceptions.md R142, R136 and 43_tree_builder.md R118: COUNT of more than MAX_SYMS distinct symbols is
CapacityExceeded, BUILD with NSYM = 0 is EmptyAlphabet, and neither writes a result. -/
def Obligations.CountAndBuildFailures : Prop :=
  ∀ s : State,
    (s.pending = some .count → s.cfg.maxSyms < s.input.toFinset.card →
      s.coreStep = { s with
        pending := none, phase := .error, err := some .capacityExceeded, done := true, outLen := 0 })
    ∧ (s.pending = some .build → s.nsym = 0 →
      s.coreStep = { s with
        pending := none, phase := .error, err := some .emptyAlphabet, done := true, outLen := 0 })

/-- 44_encoding_table.md R121 to R123: GENTAB accepted in PHASE BUILT, then its core step, in a state of the invariant. A
tree of one leaf gets the code "0"; otherwise the code of leaf i walks from the root to node i. CODE_MAXLEN is the
largest length. Nothing but CTAB, CODE_MAXLEN, PHASE, DONE and PENDING changes. -/
def Obligations.GentabRecordsRootPaths : Prop :=
  ∀ s : State, s.Inv → s.busy = false → s.phase = .built →
    ∃ a t, exec .gentab s = .next a ∧ a = { s with done := false, pending := some .gentab } ∧ t = a.coreStep
      ∧ t = { s with ctab := t.ctab, codeMaxlen := t.codeMaxlen, phase := .tabled, done := true, pending := none }
      ∧ (s.nsym.toNat = 1 → Memory.read t.ctab 0 = [false])
      ∧ (2 ≤ s.nsym.toNat → ∀ i < s.nsym.toNat,
          walkTree s.nodes (s.nodeCount.toNat - 1) (Memory.read t.ctab i) = some i)
      ∧ (∀ i < s.nsym.toNat, (Memory.read t.ctab i).length ≤ t.codeMaxlen.toNat)
      ∧ (∃ i < s.nsym.toNat, (Memory.read t.ctab i).length = t.codeMaxlen.toNat)
      ∧ (∀ k, s.nsym.toNat ≤ k → Memory.read t.ctab k = Memory.read s.ctab k)

/-- 44_encoding_table.md R125: in every state of the invariant whose CTAB is valid, every code is non-empty, no code is a
prefix of another, and for NSYM ≥ 2 the lengths meet Σ 2^(−len) = 1. -/
def Obligations.CodesArePrefixFree : Prop :=
  ∀ s : State, s.Inv → s.codeMaxlen ≠ 0 →
    (∀ i < s.nsym.toNat, Memory.read s.ctab i ≠ [])
    ∧ (∀ i j, i < s.nsym.toNat → j < s.nsym.toNat → i ≠ j →
        ¬ (Memory.read s.ctab i <+: Memory.read s.ctab j))
    ∧ (2 ≤ s.nsym.toNat →
        ((List.range s.nsym.toNat).map fun i =>
          2 ^ (s.codeMaxlen.toNat - (Memory.read s.ctab i).length)).sum = 2 ^ s.codeMaxlen.toNat)

/-- 44_encoding_table.md R124, 43_tree_builder.md R120: in every state of the invariant whose CTAB is valid, code lengths are
between 1 and max(1, NSYM − 1), and ROOT_FREQ = IN_LEN. -/
def Obligations.CodeLengthsAndRootFrequency : Prop :=
  ∀ s : State, s.Inv → s.codeMaxlen ≠ 0 →
    (∀ i < s.nsym.toNat, 1 ≤ (Memory.read s.ctab i).length
      ∧ (Memory.read s.ctab i).length ≤ max 1 (s.nsym.toNat - 1))
    ∧ s.codeMaxlen.toNat ≤ max 1 (s.cfg.maxSyms - 1)
    ∧ s.rootFreq = s.inLen

/-- 45_bit_packer.md R126 to R130, R133, 20_memory.md R64: PACK accepted in PHASE TABLED, then its core step, when every input
symbol has an entry (`idx` gives it), the table's symbols are distinct, and the payload fits. Bit m of the payload, counted
from the most significant bit of byte 0, is bit m of header, codes and padding. Nothing but OBUF, OUT_LEN, OUT_PTR,
BODY_BITS, PAD, PHASE, DONE and PENDING changes. -/
def Obligations.PackWritesPayload : Prop :=
  ∀ (s : State) (idx : Nat → Nat), s.busy = false → s.phase = .tabled → Memory.wf s.obuf = true →
    s.cfg.maxOut ≤ 2 ^ 28 →
    (∀ k < s.inLen.toNat, idx k < s.nsym.toNat
      ∧ (Memory.read s.ftab (idx k)).sym = Memory.read s.ibuf k) →
    (∀ i j, i < s.nsym.toNat → j < s.nsym.toNat → (Memory.read s.ftab i).sym = (Memory.read s.ftab j).sym → i = j) →
    ∀ (bits : Bits) (extra : Nat), bits = (List.range s.inLen.toNat).flatMap (fun k => Memory.read s.ctab (idx k)) →
      extra = (if s.padMode then (8 - bits.length % 8) % 8 else 8 - bits.length % 8) →
      8 + bits.length + extra ≤ 8 * s.cfg.maxOut →
      ∃ a t, exec .pack s = .next a ∧ a = { s with done := false, pending := some .pack } ∧ t = a.coreStep
        ∧ t = { s with
            obuf := t.obuf, outLen := t.outLen, outPtr := 0, bodyBits := t.bodyBits, pad := t.pad
            phase := .packed, done := true, pending := none }
        ∧ 8 * t.outLen.toNat = 8 + bits.length + extra
        ∧ t.bodyBits.toNat = bits.length ∧ t.pad.toNat = extra
        ∧ Memory.read t.obuf 0 = BitVec.ofNat 8 extra
        ∧ (∀ m < bits.length, (Memory.read t.obuf ((8 + m) / 8)).getLsbD (7 - (8 + m) % 8) = bits[m]?.getD false)
        ∧ (∀ m, 8 + bits.length ≤ m → m < 8 * t.outLen.toNat →
            (Memory.read t.obuf (m / 8)).getLsbD (7 - m % 8) = false)
        ∧ (∀ k, t.outLen.toNat ≤ k → Memory.read t.obuf k = Memory.read s.obuf k)

/-- 45_bit_packer.md R128, R129: the padding count of each mode, and that it makes the body a multiple of 8 bits. -/
def Obligations.PaddingCounts : Prop :=
  ∀ body : Nat,
    padCount false body = 8 - body % 8 ∧ 1 ≤ padCount false body ∧ padCount false body ≤ 8
    ∧ (body + padCount false body) % 8 = 0
    ∧ padCount true body = (8 - body % 8) % 8 ∧ padCount true body ≤ 7 ∧ (body + padCount true body) % 8 = 0
    ∧ (body % 8 ≠ 0 → padCount true body = padCount false body)
    ∧ (body % 8 = 0 → padCount true body = 0 ∧ padCount false body = 8)

/-- 60_exceptions.md R137 (the guard) and R143: PACK of an input symbol that has no entry is UnknownSymbol, and PACK of a
payload longer than MAX_OUT bytes is OutputOverflow; neither writes a result. -/
def Obligations.PackFailures : Prop :=
  ∀ s : State, s.pending = some .pack →
    ((∃ k < s.inLen.toNat, ∀ i < s.nsym.toNat, (Memory.read s.ftab i).sym ≠ Memory.read s.ibuf k) →
      s.coreStep = { s with
        pending := none, phase := .error, err := some .unknownSymbol, done := true, outLen := 0 })
    ∧ (∀ bits, encodeInput s.table s.codes s.input = .ok bits →
        8 * s.cfg.maxOut < 8 + bits.length + padCount s.padMode bits.length →
        s.coreStep = { s with
          pending := none, phase := .error, err := some .outputOverflow, done := true, outLen := 0 })

/-- 60_exceptions.md R138, 45_bit_packer.md R131: no operation ever fails with MisalignedBitstream, in any state. -/
def Obligations.MisalignedBitstreamNeverRaised : Prop :=
  ∀ (s : State) (op : Operation), (performOperation op s).2 ≠ some .misalignedBitstream

/-- 60_exceptions.md R137: in a state of the invariant no operation fails with UnknownSymbol. -/
def Obligations.UnknownSymbolUnreachable : Prop :=
  ∀ (s : State) (op : Operation), s.Inv → s.pending = some op → (performOperation op s).2 ≠ some .unknownSymbol

/-- 41_commands.md R106: RUN and its core step end in the very state that COUNT, BUILD, GENTAB and PACK end in, each
followed by its core step, whether they succeed or one of them fails. -/
def Obligations.RunEqualsItsStages : Prop :=
  ∀ s : State, s.busy = false → s.phase = .idle →
    ∃ r a b c d, exec .run s = .next r ∧ r = { s with done := false, pending := some .run }
      ∧ exec .count s = .next a ∧ exec .build a.coreStep = .next b ∧ exec .gentab b.coreStep = .next c
      ∧ exec .pack c.coreStep = .next d ∧ r.coreStep = d.coreStep

/-- 70_reset_and_hazards.md R166: "two runs on identical input produce byte-identical compressed payload". With the same
parameters, PAD_MODE and input, whatever else the two states hold, RUN ends in PACKED with the same payload, or in ERROR
with the same ERR. -/
def Obligations.SameInputSamePayload : Prop :=
  ∀ s t : State, s.busy = false → t.busy = false → s.phase = .idle → t.phase = .idle →
    s.memoriesCanonical = true → t.memoriesCanonical = true →
    s.cfg = t.cfg → s.padMode = t.padMode → s.input = t.input →
    ∃ a b, exec .run s = .next a ∧ exec .run t = .next b
      ∧ a.coreStep.runEnded = true ∧ a.coreStep.phase = b.coreStep.phase
      ∧ a.coreStep.outLen = b.coreStep.outLen ∧ a.coreStep.payload = b.coreStep.payload
      ∧ (a.coreStep.phase = .error → a.coreStep.err = b.coreStep.err)

/-- 45_bit_packer.md R134: in every state of the invariant in PHASE PACKED, 8·OUT_LEN = 8 + BODY_BITS + PAD, the header byte is
PAD, and BODY_BITS = Σ FTAB[i].freq · CTAB[i].len. -/
def Obligations.PayloadLengthLaws : Prop :=
  ∀ s : State, s.Inv → s.phase = .packed →
    8 * s.outLen.toNat = 8 + s.bodyBits.toNat + s.pad.toNat
    ∧ (Memory.read s.obuf 0).toNat = s.pad.toNat
    ∧ s.bodyBits.toNat = ((List.range s.nsym.toNat).map fun i =>
        (Memory.read s.ftab i).freq.toNat * (Memory.read s.ctab i).length).sum

/-! ### Invariants that every step keeps -/

/-- Every memory keeps its canonical form (10_state.md R49 to R53; log entry 2). -/
def Obligations.MemoriesStayCanonical : Prop :=
  ∀ s t : State, s.memoriesCanonical = true → step s = .next t → t.memoriesCanonical = true

/-- 10_state.md R25, 60_exceptions.md R145, 41_commands.md R101: ERR is nonzero exactly in PHASE ERROR, where DONE = 1, BUSY = 0
and OUT_LEN = 0; a pending operation stands in the PHASE it needs with DONE = 0. Every step keeps this. -/
def Obligations.ErrorAndPendingStatesKept : Prop :=
  ∀ s t : State, s.errorConsistent = true → s.pendingConsistent = true → step s = .next t →
    t.errorConsistent = true ∧ t.pendingConsistent = true

/-- 00_scope.md R6, R7 and 10_state.md R27 to R33: the counts stay within the capacities and the input symbols below
2^SYM_W. -/
def Obligations.CapacitiesKept : Prop :=
  ∀ s t : State, s.memoriesCanonical = true → s.withinCapacity = true → s.symbolsInRange = true → step s = .next t →
    t.withinCapacity = true ∧ t.symbolsInRange = true

/-- 10_state.md R24: PHASE moves only to IDLE (CLEAR, reset), to ERROR, or from the PHASE an operation needs to the PHASE it
leaves. -/
def Obligations.PhaseMovesForward : Prop :=
  ∀ s t : State, s.pendingConsistent = true → step s = .next t → t.phase ≠ s.phase →
    (t.phase = .error ∧ t.err.isSome = true)
    ∨ (∃ op, s.pending = some op ∧ s.phase = op.need ∧ t.phase = op.next)
    ∨ (t.phase = .idle ∧ ∃ e rest, s.inbox = e :: rest ∧ e.startsRun s.cfg = true)

/-- The state after reset meets the invariant (10_state.md R58; its parameters and memory contents are log entries 1
and 2). -/
def Obligations.ResetMeetsInvariant : Prop := State.reset.Inv

/-- The headline: every step keeps the invariant, so in every state reached from reset, under every schedule of host
accesses, core steps and resets, the results are the ones the rules give for the input (10_state.md R24, 42_frequency.md R108,
43_tree_builder.md R111, 44_encoding_table.md R121, 45_bit_packer.md R126). -/
def Obligations.StepKeepsInvariant : Prop := ∀ s t : State, s.Inv → step s = .next t → t.Inv

/-- 10_state.md R58: "The unspecified memory contents are unobservable". Two states of the invariant that differ at most in
memory entries no count register makes valid step to two such states, with the same value read. -/
def Obligations.UnspecifiedContentsUnobservable : Prop :=
  ∀ s t s' : State, s.Inv → t.Inv → s.sameVisible t → step s = .next s' →
    ∃ t', step t = .next t' ∧ s'.sameVisible t' ∧ t'.rdata = s'.rdata
end

