-- ==== Sys2Proof/Laws/State.lean ====
section
/-! SUPPORT. One lemma per field per shared update of the state, so that no proof unfolds a record update. -/

namespace Sys2Proof.Machine

/-! ### The value a read returns -/

@[simp] theorem answer_cfg (v : Word) (s : State) : (s.answer v).cfg = s.cfg := rfl
@[simp] theorem answer_ie (v : Word) (s : State) : (s.answer v).ie = s.ie := rfl
@[simp] theorem answer_padMode (v : Word) (s : State) : (s.answer v).padMode = s.padMode := rfl
@[simp] theorem answer_done (v : Word) (s : State) : (s.answer v).done = s.done := rfl
@[simp] theorem answer_busyErr (v : Word) (s : State) : (s.answer v).busyErr = s.busyErr := rfl
@[simp] theorem answer_phase (v : Word) (s : State) : (s.answer v).phase = s.phase := rfl
@[simp] theorem answer_err (v : Word) (s : State) : (s.answer v).err = s.err := rfl
@[simp] theorem answer_pending (v : Word) (s : State) : (s.answer v).pending = s.pending := rfl
@[simp] theorem answer_inLen (v : Word) (s : State) : (s.answer v).inLen = s.inLen := rfl
@[simp] theorem answer_nsym (v : Word) (s : State) : (s.answer v).nsym = s.nsym := rfl
@[simp] theorem answer_nodeCount (v : Word) (s : State) : (s.answer v).nodeCount = s.nodeCount := rfl
@[simp] theorem answer_rootFreq (v : Word) (s : State) : (s.answer v).rootFreq = s.rootFreq := rfl
@[simp] theorem answer_bodyBits (v : Word) (s : State) : (s.answer v).bodyBits = s.bodyBits := rfl
@[simp] theorem answer_pad (v : Word) (s : State) : (s.answer v).pad = s.pad := rfl
@[simp] theorem answer_outLen (v : Word) (s : State) : (s.answer v).outLen = s.outLen := rfl
@[simp] theorem answer_outPtr (v : Word) (s : State) : (s.answer v).outPtr = s.outPtr := rfl
@[simp] theorem answer_tabIndex (v : Word) (s : State) : (s.answer v).tabIndex = s.tabIndex := rfl
@[simp] theorem answer_tabWsel (v : Word) (s : State) : (s.answer v).tabWsel = s.tabWsel := rfl
@[simp] theorem answer_nodeIndex (v : Word) (s : State) : (s.answer v).nodeIndex = s.nodeIndex := rfl
@[simp] theorem answer_codeMaxlen (v : Word) (s : State) : (s.answer v).codeMaxlen = s.codeMaxlen := rfl
@[simp] theorem answer_ibuf (v : Word) (s : State) : (s.answer v).ibuf = s.ibuf := rfl
@[simp] theorem answer_ftab (v : Word) (s : State) : (s.answer v).ftab = s.ftab := rfl
@[simp] theorem answer_node (v : Word) (s : State) : (s.answer v).node = s.node := rfl
@[simp] theorem answer_ctab (v : Word) (s : State) : (s.answer v).ctab = s.ctab := rfl
@[simp] theorem answer_obuf (v : Word) (s : State) : (s.answer v).obuf = s.obuf := rfl
@[simp] theorem answer_rdata (v : Word) (s : State) : (s.answer v).rdata = v := rfl
@[simp] theorem answer_inbox (v : Word) (s : State) : (s.answer v).inbox = s.inbox := rfl
@[simp] theorem answer_busy (v : Word) (s : State) : (s.answer v).busy = s.busy := rfl

/-! ### BUSYERR set -/

@[simp] theorem markBusyErr_cfg (s : State) : (s.markBusyErr).cfg = s.cfg := rfl
@[simp] theorem markBusyErr_ie (s : State) : (s.markBusyErr).ie = s.ie := rfl
@[simp] theorem markBusyErr_padMode (s : State) : (s.markBusyErr).padMode = s.padMode := rfl
@[simp] theorem markBusyErr_done (s : State) : (s.markBusyErr).done = s.done := rfl
@[simp] theorem markBusyErr_busyErr (s : State) : (s.markBusyErr).busyErr = true := rfl
@[simp] theorem markBusyErr_phase (s : State) : (s.markBusyErr).phase = s.phase := rfl
@[simp] theorem markBusyErr_err (s : State) : (s.markBusyErr).err = s.err := rfl
@[simp] theorem markBusyErr_pending (s : State) : (s.markBusyErr).pending = s.pending := rfl
@[simp] theorem markBusyErr_inLen (s : State) : (s.markBusyErr).inLen = s.inLen := rfl
@[simp] theorem markBusyErr_nsym (s : State) : (s.markBusyErr).nsym = s.nsym := rfl
@[simp] theorem markBusyErr_nodeCount (s : State) : (s.markBusyErr).nodeCount = s.nodeCount := rfl
@[simp] theorem markBusyErr_rootFreq (s : State) : (s.markBusyErr).rootFreq = s.rootFreq := rfl
@[simp] theorem markBusyErr_bodyBits (s : State) : (s.markBusyErr).bodyBits = s.bodyBits := rfl
@[simp] theorem markBusyErr_pad (s : State) : (s.markBusyErr).pad = s.pad := rfl
@[simp] theorem markBusyErr_outLen (s : State) : (s.markBusyErr).outLen = s.outLen := rfl
@[simp] theorem markBusyErr_outPtr (s : State) : (s.markBusyErr).outPtr = s.outPtr := rfl
@[simp] theorem markBusyErr_tabIndex (s : State) : (s.markBusyErr).tabIndex = s.tabIndex := rfl
@[simp] theorem markBusyErr_tabWsel (s : State) : (s.markBusyErr).tabWsel = s.tabWsel := rfl
@[simp] theorem markBusyErr_nodeIndex (s : State) : (s.markBusyErr).nodeIndex = s.nodeIndex := rfl
@[simp] theorem markBusyErr_codeMaxlen (s : State) : (s.markBusyErr).codeMaxlen = s.codeMaxlen := rfl
@[simp] theorem markBusyErr_ibuf (s : State) : (s.markBusyErr).ibuf = s.ibuf := rfl
@[simp] theorem markBusyErr_ftab (s : State) : (s.markBusyErr).ftab = s.ftab := rfl
@[simp] theorem markBusyErr_node (s : State) : (s.markBusyErr).node = s.node := rfl
@[simp] theorem markBusyErr_ctab (s : State) : (s.markBusyErr).ctab = s.ctab := rfl
@[simp] theorem markBusyErr_obuf (s : State) : (s.markBusyErr).obuf = s.obuf := rfl
@[simp] theorem markBusyErr_rdata (s : State) : (s.markBusyErr).rdata = s.rdata := rfl
@[simp] theorem markBusyErr_inbox (s : State) : (s.markBusyErr).inbox = s.inbox := rfl
@[simp] theorem markBusyErr_busy (s : State) : (s.markBusyErr).busy = s.busy := rfl

/-! ### Error entry -/

@[simp] theorem enterError_cfg (e : Err) (s : State) : (s.enterError e).cfg = s.cfg := rfl
@[simp] theorem enterError_ie (e : Err) (s : State) : (s.enterError e).ie = s.ie := rfl
@[simp] theorem enterError_padMode (e : Err) (s : State) : (s.enterError e).padMode = s.padMode := rfl
@[simp] theorem enterError_done (e : Err) (s : State) : (s.enterError e).done = true := rfl
@[simp] theorem enterError_busyErr (e : Err) (s : State) : (s.enterError e).busyErr = s.busyErr := rfl
@[simp] theorem enterError_phase (e : Err) (s : State) : (s.enterError e).phase = .error := rfl
@[simp] theorem enterError_err (e : Err) (s : State) : (s.enterError e).err = some e := rfl
@[simp] theorem enterError_pending (e : Err) (s : State) : (s.enterError e).pending = s.pending := rfl
@[simp] theorem enterError_inLen (e : Err) (s : State) : (s.enterError e).inLen = s.inLen := rfl
@[simp] theorem enterError_nsym (e : Err) (s : State) : (s.enterError e).nsym = s.nsym := rfl
@[simp] theorem enterError_nodeCount (e : Err) (s : State) : (s.enterError e).nodeCount = s.nodeCount := rfl
@[simp] theorem enterError_rootFreq (e : Err) (s : State) : (s.enterError e).rootFreq = s.rootFreq := rfl
@[simp] theorem enterError_bodyBits (e : Err) (s : State) : (s.enterError e).bodyBits = s.bodyBits := rfl
@[simp] theorem enterError_pad (e : Err) (s : State) : (s.enterError e).pad = s.pad := rfl
@[simp] theorem enterError_outLen (e : Err) (s : State) : (s.enterError e).outLen = 0 := rfl
@[simp] theorem enterError_outPtr (e : Err) (s : State) : (s.enterError e).outPtr = s.outPtr := rfl
@[simp] theorem enterError_tabIndex (e : Err) (s : State) : (s.enterError e).tabIndex = s.tabIndex := rfl
@[simp] theorem enterError_tabWsel (e : Err) (s : State) : (s.enterError e).tabWsel = s.tabWsel := rfl
@[simp] theorem enterError_nodeIndex (e : Err) (s : State) : (s.enterError e).nodeIndex = s.nodeIndex := rfl
@[simp] theorem enterError_codeMaxlen (e : Err) (s : State) : (s.enterError e).codeMaxlen = s.codeMaxlen := rfl
@[simp] theorem enterError_ibuf (e : Err) (s : State) : (s.enterError e).ibuf = s.ibuf := rfl
@[simp] theorem enterError_ftab (e : Err) (s : State) : (s.enterError e).ftab = s.ftab := rfl
@[simp] theorem enterError_node (e : Err) (s : State) : (s.enterError e).node = s.node := rfl
@[simp] theorem enterError_ctab (e : Err) (s : State) : (s.enterError e).ctab = s.ctab := rfl
@[simp] theorem enterError_obuf (e : Err) (s : State) : (s.enterError e).obuf = s.obuf := rfl
@[simp] theorem enterError_rdata (e : Err) (s : State) : (s.enterError e).rdata = s.rdata := rfl
@[simp] theorem enterError_inbox (e : Err) (s : State) : (s.enterError e).inbox = s.inbox := rfl
@[simp] theorem enterError_busy (e : Err) (s : State) : (s.enterError e).busy = s.busy := rfl

/-! ### CLEAR -/

@[simp] theorem clearRun_cfg (s : State) : (s.clearRun).cfg = s.cfg := rfl
@[simp] theorem clearRun_ie (s : State) : (s.clearRun).ie = s.ie := rfl
@[simp] theorem clearRun_padMode (s : State) : (s.clearRun).padMode = s.padMode := rfl
@[simp] theorem clearRun_done (s : State) : (s.clearRun).done = false := rfl
@[simp] theorem clearRun_busyErr (s : State) : (s.clearRun).busyErr = false := rfl
@[simp] theorem clearRun_phase (s : State) : (s.clearRun).phase = .idle := rfl
@[simp] theorem clearRun_err (s : State) : (s.clearRun).err = none := rfl
@[simp] theorem clearRun_pending (s : State) : (s.clearRun).pending = none := rfl
@[simp] theorem clearRun_inLen (s : State) : (s.clearRun).inLen = 0 := rfl
@[simp] theorem clearRun_nsym (s : State) : (s.clearRun).nsym = 0 := rfl
@[simp] theorem clearRun_nodeCount (s : State) : (s.clearRun).nodeCount = 0 := rfl
@[simp] theorem clearRun_rootFreq (s : State) : (s.clearRun).rootFreq = 0 := rfl
@[simp] theorem clearRun_bodyBits (s : State) : (s.clearRun).bodyBits = 0 := rfl
@[simp] theorem clearRun_pad (s : State) : (s.clearRun).pad = 0 := rfl
@[simp] theorem clearRun_outLen (s : State) : (s.clearRun).outLen = 0 := rfl
@[simp] theorem clearRun_outPtr (s : State) : (s.clearRun).outPtr = 0 := rfl
@[simp] theorem clearRun_tabIndex (s : State) : (s.clearRun).tabIndex = 0 := rfl
@[simp] theorem clearRun_tabWsel (s : State) : (s.clearRun).tabWsel = 0 := rfl
@[simp] theorem clearRun_nodeIndex (s : State) : (s.clearRun).nodeIndex = 0 := rfl
@[simp] theorem clearRun_codeMaxlen (s : State) : (s.clearRun).codeMaxlen = 0 := rfl
@[simp] theorem clearRun_ibuf (s : State) : (s.clearRun).ibuf = s.ibuf := rfl
@[simp] theorem clearRun_ftab (s : State) : (s.clearRun).ftab = s.ftab := rfl
@[simp] theorem clearRun_node (s : State) : (s.clearRun).node = s.node := rfl
@[simp] theorem clearRun_ctab (s : State) : (s.clearRun).ctab = s.ctab := rfl
@[simp] theorem clearRun_obuf (s : State) : (s.clearRun).obuf = s.obuf := rfl
@[simp] theorem clearRun_rdata (s : State) : (s.clearRun).rdata = s.rdata := rfl
@[simp] theorem clearRun_inbox (s : State) : (s.clearRun).inbox = s.inbox := rfl

/-! ### Hardware reset -/

@[simp] theorem hardwareReset_cfg (s : State) : (s.hardwareReset).cfg = s.cfg := rfl
@[simp] theorem hardwareReset_ie (s : State) : (s.hardwareReset).ie = false := rfl
@[simp] theorem hardwareReset_padMode (s : State) : (s.hardwareReset).padMode = false := rfl
@[simp] theorem hardwareReset_done (s : State) : (s.hardwareReset).done = false := rfl
@[simp] theorem hardwareReset_busyErr (s : State) : (s.hardwareReset).busyErr = false := rfl
@[simp] theorem hardwareReset_phase (s : State) : (s.hardwareReset).phase = .idle := rfl
@[simp] theorem hardwareReset_err (s : State) : (s.hardwareReset).err = none := rfl
@[simp] theorem hardwareReset_pending (s : State) : (s.hardwareReset).pending = none := rfl
@[simp] theorem hardwareReset_inLen (s : State) : (s.hardwareReset).inLen = 0 := rfl
@[simp] theorem hardwareReset_nsym (s : State) : (s.hardwareReset).nsym = 0 := rfl
@[simp] theorem hardwareReset_nodeCount (s : State) : (s.hardwareReset).nodeCount = 0 := rfl
@[simp] theorem hardwareReset_rootFreq (s : State) : (s.hardwareReset).rootFreq = 0 := rfl
@[simp] theorem hardwareReset_bodyBits (s : State) : (s.hardwareReset).bodyBits = 0 := rfl
@[simp] theorem hardwareReset_pad (s : State) : (s.hardwareReset).pad = 0 := rfl
@[simp] theorem hardwareReset_outLen (s : State) : (s.hardwareReset).outLen = 0 := rfl
@[simp] theorem hardwareReset_outPtr (s : State) : (s.hardwareReset).outPtr = 0 := rfl
@[simp] theorem hardwareReset_tabIndex (s : State) : (s.hardwareReset).tabIndex = 0 := rfl
@[simp] theorem hardwareReset_tabWsel (s : State) : (s.hardwareReset).tabWsel = 0 := rfl
@[simp] theorem hardwareReset_nodeIndex (s : State) : (s.hardwareReset).nodeIndex = 0 := rfl
@[simp] theorem hardwareReset_codeMaxlen (s : State) : (s.hardwareReset).codeMaxlen = 0 := rfl
@[simp] theorem hardwareReset_ibuf (s : State) : (s.hardwareReset).ibuf = [] := rfl
@[simp] theorem hardwareReset_ftab (s : State) : (s.hardwareReset).ftab = [] := rfl
@[simp] theorem hardwareReset_node (s : State) : (s.hardwareReset).node = [] := rfl
@[simp] theorem hardwareReset_ctab (s : State) : (s.hardwareReset).ctab = [] := rfl
@[simp] theorem hardwareReset_obuf (s : State) : (s.hardwareReset).obuf = [] := rfl
@[simp] theorem hardwareReset_rdata (s : State) : (s.hardwareReset).rdata = s.rdata := rfl
@[simp] theorem hardwareReset_inbox (s : State) : (s.hardwareReset).inbox = s.inbox := rfl

/-! ### Completion -/

@[simp] theorem complete_cfg (op : Operation) (s : State) : (s.complete op).cfg = s.cfg := rfl
@[simp] theorem complete_ie (op : Operation) (s : State) : (s.complete op).ie = s.ie := rfl
@[simp] theorem complete_padMode (op : Operation) (s : State) : (s.complete op).padMode = s.padMode := rfl
@[simp] theorem complete_done (op : Operation) (s : State) : (s.complete op).done = true := rfl
@[simp] theorem complete_busyErr (op : Operation) (s : State) : (s.complete op).busyErr = s.busyErr := rfl
@[simp] theorem complete_phase (op : Operation) (s : State) : (s.complete op).phase = op.next := rfl
@[simp] theorem complete_err (op : Operation) (s : State) : (s.complete op).err = s.err := rfl
@[simp] theorem complete_pending (op : Operation) (s : State) : (s.complete op).pending = s.pending := rfl
@[simp] theorem complete_inLen (op : Operation) (s : State) : (s.complete op).inLen = s.inLen := rfl
@[simp] theorem complete_nsym (op : Operation) (s : State) : (s.complete op).nsym = s.nsym := rfl
@[simp] theorem complete_nodeCount (op : Operation) (s : State) : (s.complete op).nodeCount = s.nodeCount := rfl
@[simp] theorem complete_rootFreq (op : Operation) (s : State) : (s.complete op).rootFreq = s.rootFreq := rfl
@[simp] theorem complete_bodyBits (op : Operation) (s : State) : (s.complete op).bodyBits = s.bodyBits := rfl
@[simp] theorem complete_pad (op : Operation) (s : State) : (s.complete op).pad = s.pad := rfl
@[simp] theorem complete_outLen (op : Operation) (s : State) : (s.complete op).outLen = s.outLen := rfl
@[simp] theorem complete_outPtr (op : Operation) (s : State) : (s.complete op).outPtr = s.outPtr := rfl
@[simp] theorem complete_tabIndex (op : Operation) (s : State) : (s.complete op).tabIndex = s.tabIndex := rfl
@[simp] theorem complete_tabWsel (op : Operation) (s : State) : (s.complete op).tabWsel = s.tabWsel := rfl
@[simp] theorem complete_nodeIndex (op : Operation) (s : State) : (s.complete op).nodeIndex = s.nodeIndex := rfl
@[simp] theorem complete_codeMaxlen (op : Operation) (s : State) : (s.complete op).codeMaxlen = s.codeMaxlen := rfl
@[simp] theorem complete_ibuf (op : Operation) (s : State) : (s.complete op).ibuf = s.ibuf := rfl
@[simp] theorem complete_ftab (op : Operation) (s : State) : (s.complete op).ftab = s.ftab := rfl
@[simp] theorem complete_node (op : Operation) (s : State) : (s.complete op).node = s.node := rfl
@[simp] theorem complete_ctab (op : Operation) (s : State) : (s.complete op).ctab = s.ctab := rfl
@[simp] theorem complete_obuf (op : Operation) (s : State) : (s.complete op).obuf = s.obuf := rfl
@[simp] theorem complete_rdata (op : Operation) (s : State) : (s.complete op).rdata = s.rdata := rfl
@[simp] theorem complete_inbox (op : Operation) (s : State) : (s.complete op).inbox = s.inbox := rfl
@[simp] theorem complete_busy (op : Operation) (s : State) : (s.complete op).busy = s.busy := rfl

/-! ### A CTRL write -/

@[simp] theorem setCtrl_cfg (v : Word) (s : State) : (s.setCtrl v).cfg = s.cfg := rfl
@[simp] theorem setCtrl_ie (v : Word) (s : State) : (s.setCtrl v).ie = ctrlIe v := rfl
@[simp] theorem setCtrl_padMode (v : Word) (s : State) : (s.setCtrl v).padMode = ctrlPadMode v := rfl
@[simp] theorem setCtrl_done (v : Word) (s : State) : (s.setCtrl v).done = s.done := rfl
@[simp] theorem setCtrl_busyErr (v : Word) (s : State) : (s.setCtrl v).busyErr = s.busyErr := rfl
@[simp] theorem setCtrl_phase (v : Word) (s : State) : (s.setCtrl v).phase = s.phase := rfl
@[simp] theorem setCtrl_err (v : Word) (s : State) : (s.setCtrl v).err = s.err := rfl
@[simp] theorem setCtrl_pending (v : Word) (s : State) : (s.setCtrl v).pending = s.pending := rfl
@[simp] theorem setCtrl_inLen (v : Word) (s : State) : (s.setCtrl v).inLen = s.inLen := rfl
@[simp] theorem setCtrl_nsym (v : Word) (s : State) : (s.setCtrl v).nsym = s.nsym := rfl
@[simp] theorem setCtrl_nodeCount (v : Word) (s : State) : (s.setCtrl v).nodeCount = s.nodeCount := rfl
@[simp] theorem setCtrl_rootFreq (v : Word) (s : State) : (s.setCtrl v).rootFreq = s.rootFreq := rfl
@[simp] theorem setCtrl_bodyBits (v : Word) (s : State) : (s.setCtrl v).bodyBits = s.bodyBits := rfl
@[simp] theorem setCtrl_pad (v : Word) (s : State) : (s.setCtrl v).pad = s.pad := rfl
@[simp] theorem setCtrl_outLen (v : Word) (s : State) : (s.setCtrl v).outLen = s.outLen := rfl
@[simp] theorem setCtrl_outPtr (v : Word) (s : State) : (s.setCtrl v).outPtr = s.outPtr := rfl
@[simp] theorem setCtrl_tabIndex (v : Word) (s : State) : (s.setCtrl v).tabIndex = s.tabIndex := rfl
@[simp] theorem setCtrl_tabWsel (v : Word) (s : State) : (s.setCtrl v).tabWsel = s.tabWsel := rfl
@[simp] theorem setCtrl_nodeIndex (v : Word) (s : State) : (s.setCtrl v).nodeIndex = s.nodeIndex := rfl
@[simp] theorem setCtrl_codeMaxlen (v : Word) (s : State) : (s.setCtrl v).codeMaxlen = s.codeMaxlen := rfl
@[simp] theorem setCtrl_ibuf (v : Word) (s : State) : (s.setCtrl v).ibuf = s.ibuf := rfl
@[simp] theorem setCtrl_ftab (v : Word) (s : State) : (s.setCtrl v).ftab = s.ftab := rfl
@[simp] theorem setCtrl_node (v : Word) (s : State) : (s.setCtrl v).node = s.node := rfl
@[simp] theorem setCtrl_ctab (v : Word) (s : State) : (s.setCtrl v).ctab = s.ctab := rfl
@[simp] theorem setCtrl_obuf (v : Word) (s : State) : (s.setCtrl v).obuf = s.obuf := rfl
@[simp] theorem setCtrl_rdata (v : Word) (s : State) : (s.setCtrl v).rdata = s.rdata := rfl
@[simp] theorem setCtrl_inbox (v : Word) (s : State) : (s.setCtrl v).inbox = s.inbox := rfl
@[simp] theorem setCtrl_busy (v : Word) (s : State) : (s.setCtrl v).busy = s.busy := rfl

/-! ### The busy rules -/

theorem busy_eq_false_iff (s : State) : s.busy = false ↔ s.pending = none := by
  cases h : s.pending <;> simp [State.busy, h]

theorem busy_eq_true_iff (s : State) : s.busy = true ↔ ∃ op, s.pending = some op := by
  cases h : s.pending <;> simp [State.busy, h]

theorem guardedWrite_of_busy {f : State → State} {s : State} (h : s.busy = true) :
    s.guardedWrite f = s.markBusyErr := by
  simp only [State.guardedWrite, h, if_true]

theorem guardedWrite_of_not_busy {f : State → State} {s : State} (h : s.busy = false) : s.guardedWrite f = f s := by
  simp [State.guardedWrite, h]

theorem readRegister_of_not_busy {off : Nat} {v : Word} {s : State} (h : s.busy = false) :
    s.readRegister off v = s.answer v := by
  simp [State.readRegister, h]

theorem readRegister_of_low_offset {off : Nat} {v : Word} {s : State} (h : off ≤ 0x20) :
    s.readRegister off v = s.answer v := by
  simp [State.readRegister, Nat.not_lt.mpr h]

theorem readRegister_of_busy {off : Nat} {v : Word} {s : State} (h : s.busy = true) (ho : 0x20 < off) :
    s.readRegister off v = s.answer 0 := by
  simp only [State.readRegister, h, ho, decide_true, Bool.and_self, if_true]

@[simp] theorem ignoreWrite_eq (v : Word) (s : State) : s.ignoreWrite v = s := rfl

/-- What an operation command can do while nothing is pending (41_commands.md R101). -/
theorem requestOperation_cases (op : Operation) (s : State) :
    (s.phase = .error ∧ s.requestOperation op = s)
    ∨ (s.phase ≠ .error ∧ s.phase ≠ op.need ∧ s.requestOperation op = s.enterError .sequence)
    ∨ (s.phase = op.need ∧ s.requestOperation op = { s with done := false, pending := some op }) := by
  unfold State.requestOperation
  by_cases h : s.phase = .error
  · exact .inl ⟨h, if_pos h⟩
  · by_cases h' : s.phase = op.need
    · exact .inr (.inr ⟨h', by rw [if_neg h, if_neg (by simpa using h')]⟩)
    · exact .inr (.inl ⟨h, h', by rw [if_neg h, if_pos h']⟩)

/-- What an illegal command word can do while nothing is pending (30_encoding.md R81). -/
theorem rejectCommand_cases (s : State) :
    (s.phase = .error ∧ s.rejectCommand = s)
    ∨ (s.phase ≠ .error ∧ s.rejectCommand = s.enterError .illegalCommand) := by
  unfold State.rejectCommand
  by_cases h : s.phase = .error
  · exact .inl ⟨h, if_pos h⟩
  · exact .inr ⟨h, if_neg h⟩

/-- What a push can do while nothing is pending (40_host_access.md R94). -/
theorem pushSymbol_cases (v : Word) (s : State) :
    (s.phase = .error ∧ s.pushSymbol v = s)
    ∨ (∃ e, s.phase ≠ .error ∧ s.pushSymbol v = s.enterError e
        ∧ (e = .sequence ∨ e = .symbolRange ∨ e = .inputOverflow))
    ∨ (s.phase = .idle ∧ symbolOutOfRange s.cfg.symW v = false ∧ s.inLen.toNat ≠ s.cfg.maxLen
        ∧ s.pushSymbol v = { s with ibuf := Memory.write s.ibuf s.inLen.toNat v, inLen := s.inLen + 1 }) := by
  unfold State.pushSymbol
  by_cases h : s.phase = .error
  · exact .inl ⟨h, if_pos h⟩
  · rw [if_neg h]
    by_cases hi : s.phase = .idle
    · rw [if_neg (by simpa using hi)]
      by_cases hr : symbolOutOfRange s.cfg.symW v = true
      · exact .inr (.inl ⟨_, h, if_pos hr, by simp⟩)
      · rw [if_neg hr]
        by_cases hl : s.inLen.toNat = s.cfg.maxLen
        · exact .inr (.inl ⟨_, h, if_pos hl, by simp⟩)
        · exact .inr (.inr ⟨hi, by simpa using hr, hl, if_neg hl⟩)
    · exact .inr (.inl ⟨_, h, if_pos hi, by simp⟩)

end Sys2Proof.Machine
end

