-- ==== Sys2Proof/Laws/CoreStep.lean ====
section
/-! SUPPORT. What the core's operations can do: one lemma per operation, and the cases of a core step. -/

namespace Sys2Proof.Machine

/-- COUNT fails with CapacityExceeded, or writes FTAB and NSYM and nothing else. -/
theorem performCount_cases (s : State) :
    (s.cfg.maxSyms < s.input.dedup.length ∧ performCount s = .error .capacityExceeded)
    ∨ (s.input.dedup.length ≤ s.cfg.maxSyms ∧ performCount s = .ok { s with
        ftab := Memory.fill s.ftab 0 (frequencyTable s.input)
        nsym := BitVec.ofNat 32 s.input.dedup.length }) := by
  unfold performCount
  by_cases h : s.cfg.maxSyms < s.input.dedup.length
  · exact .inl ⟨h, if_pos h⟩
  · exact .inr ⟨Nat.le_of_not_lt h, if_neg h⟩

/-- BUILD fails with EmptyAlphabet, or writes NODE, NODE_COUNT and ROOT_FREQ and nothing else. -/
theorem performBuild_cases (s : State) :
    (s.nsym = 0 ∧ performBuild s = .error .emptyAlphabet)
    ∨ (s.nsym ≠ 0 ∧ ∃ nodes, nodes = buildNodes (s.table.map FreqEntry.freq) ∧ performBuild s = .ok { s with
        node := Memory.fill s.node 0 nodes
        nodeCount := BitVec.ofNat 32 nodes.length
        rootFreq := (nodes.getD (nodes.length - 1) default).freq }) := by
  unfold performBuild
  by_cases h : s.nsym = 0
  · exact .inl ⟨h, if_pos h⟩
  · exact .inr ⟨h, _, rfl, if_neg h⟩

/-- GENTAB always succeeds, and writes CTAB and CODE_MAXLEN and nothing else. -/
theorem performGentab_eq (s : State) : performGentab s = .ok { s with
    ctab := Memory.fill s.ctab 0 (codeTable s.nodes s.nsym.toNat)
    codeMaxlen := BitVec.ofNat 32 (maxCodeLength (codeTable s.nodes s.nsym.toNat)) } := rfl

@[simp] theorem length_bin8 (v : Nat) : (bin8 v).length = 8 := by simp [bin8]

@[simp] theorem length_packStream (bits : Bits) (extra : Nat) :
    (packStream bits extra).length = 8 + bits.length + extra := by
  simp [packStream]; omega

@[simp] theorem length_streamBytes (stream : Bits) : (streamBytes stream).length = stream.length / 8 := by
  simp [streamBytes]

/-- PACK fails in one of its three ways, or writes its five results and nothing else. -/
theorem performPack_cases (s : State) :
    (∃ e, encodeInput s.table s.codes s.input = .error e ∧ performPack s = .error e)
    ∨ ∃ bits extra, encodeInput s.table s.codes s.input = .ok bits ∧ extra = padCount s.padMode bits.length
      ∧ (((8 + bits.length + extra) % 8 ≠ 0 ∧ performPack s = .error .misalignedBitstream)
        ∨ (s.cfg.maxOut < (8 + bits.length + extra) / 8 ∧ performPack s = .error .outputOverflow)
        ∨ ((8 + bits.length + extra) / 8 ≤ s.cfg.maxOut ∧ performPack s = .ok { s with
            obuf := Memory.fill s.obuf 0 (streamBytes (packStream bits extra))
            outLen := BitVec.ofNat 32 ((8 + bits.length + extra) / 8)
            outPtr := 0
            bodyBits := BitVec.ofNat 32 bits.length
            pad := BitVec.ofNat 4 extra })) := by
  unfold performPack
  cases hb : encodeInput s.table s.codes s.input with
  | error e => exact .inl ⟨e, rfl, rfl⟩
  | ok bits =>
    refine .inr ⟨bits, _, rfl, rfl, ?_⟩
    simp only [length_packStream]
    by_cases h1 : (8 + bits.length + padCount s.padMode bits.length) % 8 = 0
    · by_cases h2 : s.cfg.maxOut < (8 + bits.length + padCount s.padMode bits.length) / 8
      · exact .inr (.inl ⟨h2, by rw [if_neg (by simpa using h1), if_pos h2]⟩)
      · exact .inr (.inr ⟨Nat.le_of_not_lt h2, by rw [if_neg (by simpa using h1), if_neg h2]⟩)
    · exact .inl ⟨h1, if_pos h1⟩

/-- RUN's stages, one at a time: an error stops them, a success goes on in the PHASE it leaves. -/
theorem performStages_cons (perform : State → Except Err State) (phase : Phase)
    (stages : List ((State → Except Err State) × Phase)) (s : State) :
    (∃ e, perform s = .error e ∧ performStages ((perform, phase) :: stages) s = (s, some e))
    ∨ ∃ s', perform s = .ok s' ∧ performStages ((perform, phase) :: stages) s =
        performStages stages { s' with phase := phase } := by
  cases h : perform s with
  | error e => exact .inl ⟨e, rfl, by simp [performStages, h]⟩
  | ok s' => exact .inr ⟨s', rfl, by simp [performStages, h]⟩

@[simp] theorem coreStep_of_none {s : State} (h : s.pending = none) : s.coreStep = s := by
  simp [State.coreStep, h]

/-- A core step with an operation pending: completion on success, error entry on failure (41_commands.md R103). -/
theorem coreStep_of_some {s : State} {op : Operation} (h : s.pending = some op) :
    (∃ r, performOperation op s = (r, none) ∧ s.coreStep = { r with pending := none }.complete op)
    ∨ ∃ r e, performOperation op s = (r, some e) ∧ s.coreStep = { r with pending := none }.enterError e := by
  rcases hp : performOperation op s with ⟨r, _ | e⟩
  · exact .inl ⟨r, rfl, by simp [State.coreStep, h, hp, State.finish]⟩
  · exact .inr ⟨r, e, rfl, by simp [State.coreStep, h, hp, State.finish]⟩

end Sys2Proof.Machine
end

