-- ==== Sys2Proof/Laws/Decode.lean ====
section
/-! SUPPORT. The fields of a BOW, and the forms of the decoder. -/

namespace Sys2Proof

/-- A BOW as a number: W at bit 39, OFF at bit 32, DATA at bit 0. -/
theorem toNat_bowWord (write : Bool) (off : BitVec 7) (d : Word) :
    (bowWord write off d).toNat = write.toNat * 2 ^ 39 + off.toNat * 2 ^ 32 + d.toNat := by
  have h1 := off.isLt
  have h2 := d.isLt
  show (BitVec.ofBool write ++ off ++ d : BitVec (1 + 7 + 32)).toNat = _
  rw [BitVec.toNat_append, BitVec.toNat_append, ← Nat.shiftLeft_add_eq_or_of_lt h1,
    ← Nat.shiftLeft_add_eq_or_of_lt h2, BitVec.toNat_ofBool, Nat.shiftLeft_eq, Nat.shiftLeft_eq]
  omega

/-- The fields of a BOW as numbers. -/
theorem toNat_bowOffset (w : BitVec 40) : (bowOffset w).toNat = w.toNat / 2 ^ 32 % 2 ^ 7 := by
  simp [bowOffset, BitVec.extractLsb'_toNat, Nat.shiftRight_eq_div_pow]

theorem toNat_bowData (w : BitVec 40) : (bowData w).toNat = w.toNat % 2 ^ 32 := by
  simp [bowData, BitVec.extractLsb'_toNat]

theorem bowWrite_eq (w : BitVec 40) : (bowWrite w).toNat = w.toNat / 2 ^ 39 := by
  have h := w.isLt
  rw [bowWrite, BitVec.getLsbD, Nat.testBit_eq_decide_div_mod_eq]
  have : w.toNat / 2 ^ 39 = 0 ∨ w.toNat / 2 ^ 39 = 1 := by omega
  rcases this with h | h <;> rw [h] <;> rfl

@[simp] theorem bowWrite_bowWord (write : Bool) (off : BitVec 7) (d : Word) :
    bowWrite (bowWord write off d) = write := by
  have h1 := off.isLt
  have h2 := d.isLt
  have h := bowWrite_eq (bowWord write off d)
  rw [toNat_bowWord] at h
  cases write <;> cases hw : bowWrite (bowWord _ off d) <;> simp [hw] at h ⊢ <;> omega

@[simp] theorem bowOffset_bowWord (write : Bool) (off : BitVec 7) (d : Word) :
    bowOffset (bowWord write off d) = off := by
  have h1 := off.isLt
  have h2 := d.isLt
  apply BitVec.eq_of_toNat_eq
  rw [toNat_bowOffset, toNat_bowWord]
  cases write <;> simp <;> omega

@[simp] theorem bowData_bowWord (write : Bool) (off : BitVec 7) (d : Word) :
    bowData (bowWord write off d) = d := by
  have h1 := off.isLt
  have h2 := d.isLt
  apply BitVec.eq_of_toNat_eq
  rw [toNat_bowData, toNat_bowWord]
  cases write <;> simp <;> omega

/-- A BOW is the word of its three fields (30_encoding.md R78). -/
theorem bowWord_fields (w : BitVec 40) : bowWord (bowWrite w) (bowOffset w) (bowData w) = w := by
  have h := w.isLt
  apply BitVec.eq_of_toNat_eq
  rw [toNat_bowWord, toNat_bowOffset, toNat_bowData, bowWrite_eq]
  omega

@[simp] theorem decode_cw (cw : Word) : decode (.cw cw) = .ok (decodeCw cw) := rfl

/-- The decoder on a read BOW, given by its fields. -/
theorem decode_read (off : BitVec 7) (d : Word) :
    decode (.bow (bowWord false off d)) =
      match readForm off.toNat with | some i => .ok i | none => .error (.misaligned false off) := by
  cases h : readForm off.toNat <;> simp [decode, decodeBow, h]

/-- The decoder on a write BOW, given by its fields. -/
theorem decode_write (off : BitVec 7) (v : Word) :
    decode (.bow (bowWord true off v)) =
      match writeForm v off.toNat with | some i => .ok i | none => .error (.misaligned true off) := by
  cases h : writeForm v off.toNat <;> simp [decode, decodeBow, h]

end Sys2Proof
end

