-- ==== Sys2Proof/Laws/Exec.lean ====
section
/-! SUPPORT. What an instruction can do and what a step can do, said once: invariant proofs split into these cases and
unfold neither. -/

namespace Sys2Proof.Machine

/-- What a command word written to CMD can do (41_commands.md R101). -/
theorem accept_cases (cw : Word) (s : State) :
    s.accept cw = s
    ∨ (s.busy = true ∧ s.accept cw = s.markBusyErr)
    ∨ (cw = 0x00000001#32 ∧ s.accept cw = s.clearRun)
    ∨ (s.busy = false ∧ s.phase ≠ .error ∧ ∃ e, (e = .sequence ∨ e = .illegalCommand) ∧ s.accept cw = s.enterError e)
    ∨ (s.busy = false ∧ ∃ op, s.phase = op.need ∧ s.accept cw = { s with done := false, pending := some op }) := by
  have request : ∀ op, s.busy = false → s.accept cw = s.requestOperation op →
      s.accept cw = s
        ∨ (s.busy = false ∧ s.phase ≠ .error ∧ ∃ e, (e = .sequence ∨ e = .illegalCommand) ∧ s.accept cw = s.enterError e)
        ∨ (s.busy = false ∧ ∃ op, s.phase = op.need ∧ s.accept cw = { s with done := false, pending := some op }) := by
    intro op hb h
    rw [h]
    rcases requestOperation_cases op s with ⟨-, h'⟩ | ⟨he, -, h'⟩ | ⟨hn, h'⟩
    · exact .inl h'
    · exact .inr (.inl ⟨hb, he, _, .inl rfl, h'⟩)
    · exact .inr (.inr ⟨hb, op, hn, h'⟩)
  by_cases hb : s.busy = true
  · by_cases hc : cw = 0x00000001#32
    · exact .inr (.inr (.inl ⟨hc, by simp only [State.accept, hb, if_true, hc]⟩))
    · exact .inr (.inl ⟨hb, by simp only [State.accept, hb, if_true, hc, if_false]⟩)
  · have hb' : s.busy = false := eq_false_of_ne_true hb
    by_cases hl : legalCw cw = true
    · have hop : s.accept cw = s.accept cw := rfl
      conv_rhs at hop => rw [State.accept, if_neg hb, if_neg (by simp [hl])]
      split at hop
      · exact .inl hop
      · rename_i h1
        refine .inr (.inr (.inl ⟨?_, hop⟩))
        have h0 : cwReserved cw = 0 := by
          simp only [legalCw, Bool.and_eq_true, beq_iff_eq] at hl; exact hl.1
        have := congrArg BitVec.toNat h0
        apply BitVec.eq_of_toNat_eq
        simp [cwOpcode, cwReserved, BitVec.extractLsb'_toNat, Nat.shiftRight_eq_div_pow] at h1 this ⊢
        omega
      all_goals
        rcases request _ hb' hop with h | h | h
        · exact .inl h
        · exact .inr (.inr (.inr (.inl h)))
        · exact .inr (.inr (.inr (.inr h)))
    · have hr : s.accept cw = s.rejectCommand := by rw [State.accept, if_neg hb, if_pos (by simp [hl])]
      rcases rejectCommand_cases s with ⟨-, h⟩ | ⟨he, h⟩
      · exact .inl (hr.trans h)
      · exact .inr (.inr (.inr (.inl ⟨hb', he, _, .inr rfl, hr.trans h⟩)))

/-- What a guarded write can do: mark BUSYERR, or its effect while nothing is pending. -/
theorem guardedWrite_cases (f : State → State) (s : State) :
    (s.busy = true ∧ s.guardedWrite f = s.markBusyErr) ∨ (s.busy = false ∧ s.guardedWrite f = f s) := by
  by_cases h : s.busy = true
  · exact .inl ⟨h, guardedWrite_of_busy h⟩
  · exact .inr ⟨eq_false_of_ne_true h, guardedWrite_of_not_busy (eq_false_of_ne_true h)⟩

/-- Everything one instruction can do to the state, with what it needs for that. -/
inductive HostEffect (i : Instr) (s : State) : State → Prop
  /-- Nothing changes. -/
  | same : HostEffect i s s
  /-- A read answers a value. -/
  | answered (v : Word) : HostEffect i s (s.answer v)
  /-- A payload byte is popped (40_host_access.md R91). -/
  | popped (v : Word) (idle : s.busy = false) (more : s.outPtr < s.outLen) :
      HostEffect i s { s.answer v with outPtr := s.outPtr + 1 }
  /-- A write while BUSY = 1 is marked (40_host_access.md R100). -/
  | marked (busy : s.busy = true) : HostEffect i s s.markBusyErr
  /-- A new run starts (41_commands.md R105). -/
  | cleared (by_clear : i = .clear ∨ i = .wrCmd 0x00000001) : HostEffect i s s.clearRun
  /-- An error is entered (60_exceptions.md R145). -/
  | failed (e : Err) (idle : s.busy = false) (good : s.phase ≠ .error)
      (kind : e = .sequence ∨ e = .symbolRange ∨ e = .inputOverflow ∨ e = .illegalCommand) :
      HostEffect i s (s.enterError e)
  /-- An operation is accepted (41_commands.md R101). -/
  | accepted (op : Operation) (idle : s.busy = false) (need : s.phase = op.need) :
      HostEffect i s { s with done := false, pending := some op }
  /-- A symbol is pushed (40_host_access.md R94). -/
  | pushed (v : Word) (idle : s.busy = false) (phase : s.phase = .idle)
      (range : symbolOutOfRange s.cfg.symW v = false) (room : s.inLen.toNat ≠ s.cfg.maxLen) :
      HostEffect i s { s with ibuf := Memory.write s.ibuf s.inLen.toNat v, inLen := s.inLen + 1 }
  /-- CTRL is written (40_host_access.md R92). -/
  | ctrl (v : Word) (idle : s.busy = false) : HostEffect i s (s.setCtrl v)
  /-- A pointer or index register is written (40_host_access.md R95 to R98). -/
  | indexed (a b c d : Word) (idle : s.busy = false) :
      HostEffect i s { s with outPtr := a, tabIndex := b, tabWsel := c, nodeIndex := d }

theorem readRegister_effect (i : Instr) (off : Nat) (v : Word) (s : State) : HostEffect i s (s.readRegister off v) :=
  .answered _

theorem guardedWrite_effect {i : Instr} {f : State → State} {s : State}
    (h : s.busy = false → HostEffect i s (f s)) : HostEffect i s (s.guardedWrite f) := by
  rcases guardedWrite_cases f s with ⟨hb, h'⟩ | ⟨hb, h'⟩ <;> rw [h']
  · exact .marked hb
  · exact h hb

theorem requestOperation_effect (i : Instr) (op : Operation) (s : State) (hb : s.busy = false) :
    HostEffect i s (s.requestOperation op) := by
  rcases requestOperation_cases op s with ⟨-, h⟩ | ⟨he, -, h⟩ | ⟨hn, h⟩ <;> rw [h]
  · exact .same
  · exact .failed _ hb he (.inl rfl)
  · exact .accepted op hb hn

theorem rejectCommand_effect (i : Instr) (s : State) (hb : s.busy = false) : HostEffect i s s.rejectCommand := by
  rcases rejectCommand_cases s with ⟨-, h⟩ | ⟨he, h⟩ <;> rw [h]
  · exact .same
  · exact .failed _ hb he (.inr (.inr (.inr rfl)))

theorem pushSymbol_effect (i : Instr) (v : Word) (s : State) (hb : s.busy = false) :
    HostEffect i s (s.pushSymbol v) := by
  rcases pushSymbol_cases v s with ⟨-, h⟩ | ⟨e, he, h, hk⟩ | ⟨hi, hr, hl, h⟩ <;> rw [h]
  · exact .same
  · exact .failed e hb he (by tauto)
  · exact .pushed v hb hi hr hl

theorem accept_effect (cw : Word) (s : State) : HostEffect (.wrCmd cw) s (s.accept cw) := by
  rcases accept_cases cw s with h | ⟨hb, h⟩ | ⟨hc, h⟩ | ⟨hb, he, e, hk, h⟩ | ⟨hb, op, hn, h⟩ <;> rw [h]
  · exact .same
  · exact .marked hb
  · exact .cleared (.inr (by rw [hc]; rfl))
  · exact .failed e hb he (by tauto)
  · exact .accepted op hb hn

theorem popOutData_effect (s : State) : ∃ t, execRdOutData s = .next t ∧ HostEffect .rdOutData s t := by
  unfold execRdOutData
  by_cases hb : s.busy = true
  · exact ⟨_, if_pos hb, .answered _⟩
  · rw [if_neg hb]
    by_cases hl : s.outPtr < s.outLen
    · exact ⟨_, if_pos hl, .popped _ (eq_false_of_ne_true hb) hl⟩
    · exact ⟨_, if_neg hl, .answered _⟩

/-- Every instruction answers a next state, and it is one of the effects. -/
theorem exec_effect (i : Instr) (s : State) : ∃ t, exec i s = .next t ∧ HostEffect i s t := by
  cases i
  case rdOutData => exact popOutData_effect s
  case nop => exact ⟨_, rfl, guardedWrite_effect fun _ => .same⟩
  case clear => exact ⟨_, rfl, .cleared (.inl rfl)⟩
  case illegalCw => exact ⟨_, rfl, guardedWrite_effect fun hb => rejectCommand_effect _ s hb⟩
  case wrCmd cw => exact ⟨_, rfl, accept_effect cw s⟩
  case wrInData v => exact ⟨_, rfl, guardedWrite_effect fun hb => pushSymbol_effect _ v s hb⟩
  case wrCtrl v => exact ⟨_, rfl, guardedWrite_effect fun hb => .ctrl v hb⟩
  case wrOutPtr v => exact ⟨_, rfl, guardedWrite_effect fun hb => .indexed v s.tabIndex s.tabWsel s.nodeIndex hb⟩
  case wrTabIndex v => exact ⟨_, rfl, guardedWrite_effect fun hb => .indexed s.outPtr v s.tabWsel s.nodeIndex hb⟩
  case wrTabWsel v => exact ⟨_, rfl, guardedWrite_effect fun hb => .indexed s.outPtr s.tabIndex v s.nodeIndex hb⟩
  case wrNodeIndex v => exact ⟨_, rfl, guardedWrite_effect fun hb => .indexed s.outPtr s.tabIndex s.tabWsel v hb⟩
  case count => exact ⟨_, rfl, guardedWrite_effect fun hb => requestOperation_effect _ _ s hb⟩
  case build => exact ⟨_, rfl, guardedWrite_effect fun hb => requestOperation_effect _ _ s hb⟩
  case gentab => exact ⟨_, rfl, guardedWrite_effect fun hb => requestOperation_effect _ _ s hb⟩
  case pack => exact ⟨_, rfl, guardedWrite_effect fun hb => requestOperation_effect _ _ s hb⟩
  case run => exact ⟨_, rfl, guardedWrite_effect fun hb => requestOperation_effect _ _ s hb⟩
  all_goals first
    | exact ⟨_, rfl, readRegister_effect _ _ _ s⟩
    | exact ⟨_, rfl, .same⟩

/-! ### A step -/

/-- Only the exact CLEAR word decodes to CLEAR or to a write of that word to CMD. -/
theorem startsRun_of_decode_clear {cfg : Config} {e : Encoded} {i : Instr} (h : decode e = .ok i)
    (hi : i = .clear ∨ i = .wrCmd 0x00000001) : Event.startsRun cfg (.host e) = true := by
  cases e with
  | cw w =>
    have hw : decodeCw w = i := by simpa using h
    have h1 : w = 0x00000001#32 := by
      unfold decodeCw at hw
      split at hw
      · rename_i hl
        split at hw <;> rcases hi with rfl | rfl <;> simp at hw
        rename_i h1
        have h0 : cwReserved w = 0 := by
          simp only [legalCw, Bool.and_eq_true, beq_iff_eq] at hl; exact hl.1
        have h2 := congrArg BitVec.toNat h0
        apply BitVec.eq_of_toNat_eq
        simp [cwOpcode, cwReserved, BitVec.extractLsb'_toNat, Nat.shiftRight_eq_div_pow] at h1 h2 ⊢
        omega
      · rcases hi with rfl | rfl <;> simp at hw
    simp [Event.startsRun, h1]
  | bow w =>
    rw [← bowWord_fields w] at h ⊢
    generalize bowWrite w = b, bowOffset w = off, bowData w = d at h ⊢
    cases b
    · rw [decode_read] at h
      exfalso
      unfold readForm at h
      split at h
      · rename_i heq
        split at heq <;> simp at heq h <;> subst heq <;> subst h <;> simp at hi
      · simp at h
    · rw [decode_write] at h
      unfold writeForm at h
      split at h
      · rename_i heq
        split at heq <;> simp at heq h <;> subst heq <;> subst h <;> simp at hi
        rename_i ho
        subst hi
        obtain rfl : off = 0x1C#7 := BitVec.eq_of_toNat_eq (by simpa using ho)
        simp only [Event.startsRun]
        decide
      · simp at h

/-- Everything one step can do: a turn of the core, a reset, one host access, or nothing but taking the event. -/
inductive StepEffect (s : State) : State → Prop
  /-- The inbox is empty: the core's turn. -/
  | alone (none_left : s.inbox = []) : StepEffect s s.coreStep
  /-- The core's turn, as scheduled. -/
  | core (rest : List Event) (next : s.inbox = .coreTurn :: rest) :
      StepEffect s (State.coreStep { s with inbox := rest })
  /-- The reset input. -/
  | reset (rest : List Event) (next : s.inbox = .hardReset :: rest) :
      StepEffect s (State.hardwareReset { s with inbox := rest })
  /-- A host access; it clears the run only if its event starts a new one. -/
  | host (e : Event) (rest : List Event) (i : Instr) (t : State) (next : s.inbox = e :: rest)
      (effect : HostEffect i { s with inbox := rest } t)
      (only_clear : i = .clear ∨ i = .wrCmd 0x00000001 → e.startsRun s.cfg = true) : StepEffect s t
  /-- An access that is not decoded, or an undefined one (20_memory.md R59, R61). -/
  | skipped (e : Event) (rest : List Event) (v : Word) (next : s.inbox = e :: rest) :
      StepEffect s (State.answer v { s with inbox := rest })

/-- An undefined access only answers a value. -/
theorem undefinedAccess_eq (write : Bool) (s : State) : ∃ v, s.undefinedAccess write = s.answer v := by
  cases write
  · exact ⟨0, rfl⟩
  · exact ⟨s.rdata, rfl⟩

/-- A host access given as a word: the effect of the instruction it decodes to, or an answered value. -/
theorem hostAccess_effect (e : Encoded) (s : State) :
    (∃ i t, decode e = .ok i ∧ s.hostAccess e = .next t ∧ HostEffect i s t)
    ∨ ∃ v, s.hostAccess e = .next (s.answer v) := by
  rcases hd : decode e with ⟨w, off⟩ | i
  · obtain ⟨v, hv⟩ := undefinedAccess_eq w s
    exact .inr ⟨v, by simp [State.hostAccess, hd, hv]⟩
  · obtain ⟨t, ht, he⟩ := exec_effect i s
    exact .inl ⟨i, t, rfl, by simp [State.hostAccess, hd, ht], he⟩

/-- The four lanes that carry the word 1. -/
theorem lanes_of_wordOfLanes_one {bytes : List Byte} (hl : bytes.length = 4) (h : wordOfLanes bytes = 0x00000001#32) :
    bytes = [0x01#8, 0x00#8, 0x00#8, 0x00#8] := by
  match bytes, hl with
  | [b0, b1, b2, b3], _ =>
    have h0 := b0.isLt
    have h1 := b1.isLt
    have h2 := b2.isLt
    have hn : (b3 ++ b2 ++ b1 ++ b0 : BitVec (8 + 8 + 8 + 8)).toNat = 1 := congrArg BitVec.toNat h
    rw [BitVec.toNat_append, BitVec.toNat_append, BitVec.toNat_append, ← Nat.shiftLeft_add_eq_or_of_lt h2,
      ← Nat.shiftLeft_add_eq_or_of_lt h1, ← Nat.shiftLeft_add_eq_or_of_lt h0] at hn
    simp only [Nat.shiftLeft_eq] at hn
    have e0 : b0 = 1#8 := BitVec.eq_of_toNat_eq (by simp; omega)
    have e1 : b1 = 0#8 := BitVec.eq_of_toNat_eq (by simp; omega)
    have e2 : b2 = 0#8 := BitVec.eq_of_toNat_eq (by simp; omega)
    have e3 : b3 = 0#8 := BitVec.eq_of_toNat_eq (by simp; omega)
    rw [e0, e1, e2, e3]

/-- A bus access: not decoded, undefined, or the effect of the instruction of its BOW. -/
theorem busAccess_effect (a : BusAccess) (s : State) :
    (∃ v, s.busAccess a = .next (s.answer v))
    ∨ ∃ i t, s.busAccess a = .next t ∧ HostEffect i s t
        ∧ (i = .clear ∨ i = .wrCmd 0x00000001 → Event.startsRun s.cfg (.bus a) = true) := by
  cases a with
  | read addr size =>
    simp only [State.busAccess]
    split
    · exact .inl ⟨s.rdata, rfl⟩
    · split
      · rcases hostAccess_effect (.bow (bowWord false (BitVec.ofNat 7 (addr - s.cfg.base)) 0)) s with
          ⟨i, t, hd, ht, he⟩ | h
        · refine .inr ⟨i, t, ht, he, fun hi => ?_⟩
          have := startsRun_of_decode_clear (cfg := s.cfg) hd hi
          simp only [Event.startsRun, Bool.or_eq_true, beq_iff_eq, reduceCtorEq, false_or, Encoded.bow.injEq] at this
          have hw := congrArg bowWrite this
          rw [bowWrite_bowWord] at hw
          exact absurd hw (by decide)
        · exact .inl h
      · exact .inl ⟨0, rfl⟩
  | write addr bytes =>
    simp only [State.busAccess]
    split
    · exact .inl ⟨s.rdata, rfl⟩
    · rename_i hin
      split
      · rename_i hl
        rcases hostAccess_effect (.bow (bowWord true (BitVec.ofNat 7 (addr - s.cfg.base)) (wordOfLanes bytes))) s with
          ⟨i, t, hd, ht, he⟩ | h
        · refine .inr ⟨i, t, ht, he, fun hi => ?_⟩
          have := startsRun_of_decode_clear (cfg := s.cfg) hd hi
          simp only [Event.startsRun, Bool.or_eq_true, beq_iff_eq, reduceCtorEq, false_or, Encoded.bow.injEq] at this
          have ho := congrArg bowOffset this
          have hv := congrArg bowData this
          rw [bowOffset_bowWord] at ho
          rw [bowData_bowWord] at hv
          have hb := lanes_of_wordOfLanes_one hl (hv.trans (by decide))
          have ho' : (addr - s.cfg.base) % 128 = 28 := by
            have := congrArg BitVec.toNat (ho.trans (by decide : bowOffset 0x9C00000001#40 = 28#7))
            simpa using this
          simp only [inWindow, Bool.not_eq_true', Bool.and_eq_false_imp, decide_eq_true_eq, decide_eq_false_iff_not,
            not_forall, not_not] at hin
          obtain ⟨h1, h2⟩ := hin
          simp only [Event.startsRun, hb, beq_iff_eq, BusAccess.write.injEq, and_true]
          omega
        · exact .inl h
      · exact .inl ⟨s.rdata, rfl⟩

/-- Every step answers a next state, and it is one of the effects. -/
theorem step_effect (s : State) : ∃ t, step s = .next t ∧ StepEffect s t := by
  unfold step State.takeTurn
  cases hq : s.inbox with
  | nil => exact ⟨_, rfl, .alone hq⟩
  | cons e rest =>
    cases e with
    | coreTurn => exact ⟨_, rfl, .core rest hq⟩
    | hardReset => exact ⟨_, rfl, .reset rest hq⟩
    | host w =>
      rcases hostAccess_effect w { s with inbox := rest } with ⟨i, t, hd, ht, he⟩ | ⟨v, hv⟩
      · exact ⟨t, ht, .host _ rest i t hq he fun hi => startsRun_of_decode_clear hd hi⟩
      · exact ⟨_, hv, .skipped _ rest v hq⟩
    | bus a =>
      rcases busAccess_effect a { s with inbox := rest } with ⟨v, hv⟩ | ⟨i, t, ht, he, hc⟩
      · exact ⟨_, hv, .skipped _ rest v hq⟩
      · exact ⟨t, ht, .host _ rest i t hq he hc⟩

/-- The effect of a step, from its answer. -/
theorem stepEffect_of_step {s t : State} (h : step s = .next t) : StepEffect s t := by
  obtain ⟨t', ht, he⟩ := step_effect s
  rw [ht] at h
  cases h
  exact he

end Sys2Proof.Machine
end

