-- ==== Sys2Proof/Laws/Memory.lean ====
section
/-! SUPPORT. The internal memories: reading after writing, the canonical form and that every operation keeps it. -/

namespace Sys2Proof.Machine

variable {α : Type} [Inhabited α]

@[simp] theorem Memory.read_nil (i : Nat) : Memory.read ([] : Memory α) i = Memory.unlisted := rfl

theorem Memory.read_cons (j i : Nat) (v : α) (m : Memory α) :
    Memory.read ((j, v) :: m) i = if j = i then v else Memory.read m i := rfl

@[simp] theorem Memory.length_firstEntries (m : Memory α) (n : Nat) : (Memory.firstEntries m n).length = n := by
  simp [Memory.firstEntries]

@[simp] theorem Memory.getElem_firstEntries (m : Memory α) (n i : Nat) (h : i < (Memory.firstEntries m n).length) :
    (Memory.firstEntries m n)[i] = Memory.read m i := by
  simp [Memory.firstEntries]

@[simp] theorem Memory.getD_firstEntries {m : Memory α} {n i : Nat} (h : i < n) (d : α) :
    (Memory.firstEntries m n).getD i d = Memory.read m i := by
  simp [Memory.firstEntries, h]

variable [DecidableEq α]

@[simp] theorem Memory.wf_nil : Memory.wf ([] : Memory α) = true := rfl

/-- The head of a canonical memory and the rest of it. -/
theorem Memory.wfFrom_cons {k : Option Nat} {i : Nat} {v : α} {m : Memory α} :
    Memory.wfFrom k ((i, v) :: m) = true ↔
      (∀ j, k = some j → j < i) ∧ v ≠ Memory.unlisted ∧ Memory.wfFrom (some i) m = true := by
  cases k <;> simp [Memory.wfFrom, and_assoc]

/-- A lower bound may be lowered. -/
theorem Memory.wfFrom_weaken {k : Option Nat} {j : Nat} {m : Memory α} (h : Memory.wfFrom (some j) m = true)
    (hk : ∀ i, k = some i → i ≤ j) : Memory.wfFrom k m = true := by
  cases m with
  | nil => rfl
  | cons e m =>
    obtain ⟨i, v⟩ := e
    obtain ⟨h1, h2, h3⟩ := Memory.wfFrom_cons.1 h
    exact Memory.wfFrom_cons.2 ⟨fun a ha => Nat.lt_of_le_of_lt (hk a ha) (h1 j rfl), h2, h3⟩

/-- An index at or below the lower bound is not listed. -/
theorem Memory.read_of_le {j i : Nat} {m : Memory α} (h : Memory.wfFrom (some j) m = true) (hi : i ≤ j) :
    Memory.read m i = Memory.unlisted := by
  induction m generalizing j with
  | nil => rfl
  | cons e m ih =>
    obtain ⟨a, v⟩ := e
    obtain ⟨h1, -, h3⟩ := Memory.wfFrom_cons.1 h
    have ha : j < a := h1 j rfl
    rw [Memory.read_cons, if_neg (by omega)]
    exact ih h3 (by omega)

/-- A write keeps the canonical form above a lower bound. -/
theorem Memory.wfFrom_write {k : Option Nat} {m : Memory α} {i : Nat} (v : α) (h : Memory.wfFrom k m = true)
    (hk : ∀ j, k = some j → j < i) : Memory.wfFrom k (Memory.write m i v) = true := by
  induction m generalizing k with
  | nil =>
    simp only [Memory.write]
    split
    · rfl
    · exact Memory.wfFrom_cons.2 ⟨hk, ‹_›, rfl⟩
  | cons e m ih =>
    obtain ⟨j, u⟩ := e
    obtain ⟨h1, h2, h3⟩ := Memory.wfFrom_cons.1 h
    simp only [Memory.write]
    split
    · split
      · exact h
      · exact Memory.wfFrom_cons.2 ⟨hk, ‹_›, Memory.wfFrom_cons.2 ⟨by simpa using ‹i < j›, h2, h3⟩⟩
    · split
      · subst i
        split
        · exact Memory.wfFrom_weaken h3 fun a ha => (h1 a ha).le
        · exact Memory.wfFrom_cons.2 ⟨h1, ‹_›, h3⟩
      · exact Memory.wfFrom_cons.2 ⟨h1, h2, ih h3 (by simp; omega)⟩

/-- A write keeps the canonical form. -/
theorem Memory.wf_write {m : Memory α} (i : Nat) (v : α) (h : Memory.wf m = true) :
    Memory.wf (Memory.write m i v) = true :=
  Memory.wfFrom_write v h (by simp)

/-- Reading after a write, above a lower bound. -/
theorem Memory.read_write_from {k : Option Nat} {m : Memory α} (h : Memory.wfFrom k m = true) (i : Nat) (v : α) (j : Nat) :
    Memory.read (Memory.write m i v) j = if j = i then v else Memory.read m j := by
  induction m generalizing k with
  | nil =>
    simp only [Memory.write]
    split
    · subst v; simp
    · rw [Memory.read_cons]; simp only [eq_comm]
  | cons e m ih =>
    obtain ⟨a, u⟩ := e
    obtain ⟨-, -, h3⟩ := Memory.wfFrom_cons.1 h
    simp only [Memory.write]
    split
    · split
      · subst v
        by_cases hj : j = i
        · subst hj
          rw [if_pos rfl, Memory.read_cons, if_neg (by omega), Memory.read_of_le h3 (by omega)]
        · rw [if_neg hj]
      · rw [Memory.read_cons]; simp only [eq_comm]
    · split
      · subst i
        by_cases hj : j = a
        · subst hj
          rw [if_pos rfl]
          split
          · subst v; exact Memory.read_of_le h3 (Nat.le_refl _)
          · rw [Memory.read_cons, if_pos rfl]
        · rw [if_neg hj, Memory.read_cons, if_neg (Ne.symm hj)]
          split
          · rfl
          · rw [Memory.read_cons, if_neg (Ne.symm hj)]
      · rw [Memory.read_cons, Memory.read_cons, ih h3]
        by_cases hj : a = j
        · subst hj; rw [if_pos rfl, if_neg (by omega), if_pos rfl]
        · rw [if_neg hj, if_neg hj]

/-- A read after a write to the same index gives the value written; every other index reads as before. -/
theorem Memory.read_write {m : Memory α} (h : Memory.wf m = true) (i : Nat) (v : α) (j : Nat) :
    Memory.read (Memory.write m i v) j = if j = i then v else Memory.read m j :=
  Memory.read_write_from h i v j

/-- Filling keeps the canonical form. -/
theorem Memory.wf_fill {m : Memory α} (k : Nat) (vs : List α) (h : Memory.wf m = true) :
    Memory.wf (Memory.fill m k vs) = true := by
  induction vs generalizing m k with
  | nil => exact h
  | cons v vs ih => exact ih (k + 1) (Memory.wf_write k v h)

/-- Reading after filling: the filled indices give the list, every other index reads as before. -/
theorem Memory.read_fill {m : Memory α} (h : Memory.wf m = true) (k : Nat) (vs : List α) (j : Nat) :
    Memory.read (Memory.fill m k vs) j =
      if k ≤ j ∧ j < k + vs.length then vs.getD (j - k) Memory.unlisted else Memory.read m j := by
  induction vs generalizing m k with
  | nil => rw [Memory.fill, if_neg (by simp)]
  | cons v vs ih =>
    rw [Memory.fill, ih (Memory.wf_write k v h), Memory.read_write h]
    by_cases hj : j = k
    · subst hj; simp
    · by_cases hl : k ≤ j ∧ j < k + (vs.length + 1)
      · obtain ⟨d, rfl⟩ : ∃ d, j = k + 1 + d := ⟨j - (k + 1), by omega⟩
        rw [if_pos (by omega), if_pos (by simpa using hl)]
        simp [show k + 1 + d - k = d + 1 by omega]
      · rw [if_neg (by omega), if_neg hj, if_neg (by simpa using hl)]

/-- The entries just filled, read back. -/
theorem Memory.firstEntries_fill {m : Memory α} (h : Memory.wf m = true) (vs : List α) :
    Memory.firstEntries (Memory.fill m 0 vs) vs.length = vs := by
  refine List.ext_getElem (by simp) fun i h1 h2 => ?_
  rw [Memory.getElem_firstEntries, Memory.read_fill h, if_pos (by omega)]
  simp [h2]

/-- The input after a push: the symbol at its end. -/
theorem Memory.firstEntries_write_succ {m : Memory α} (h : Memory.wf m = true) (n : Nat) (v : α) :
    Memory.firstEntries (Memory.write m n v) (n + 1) = Memory.firstEntries m n ++ [v] := by
  simp only [Memory.firstEntries, List.range_succ, List.map_append, List.map_cons, List.map_nil]
  rw [Memory.read_write h n v n, if_pos rfl]
  congr 1
  refine List.map_congr_left fun k hk => ?_
  rw [Memory.read_write h, if_neg (List.mem_range.1 hk).ne]

/-- After reset every memory is in canonical form. -/
theorem reset_memories_wf :
    Memory.wf State.reset.ibuf = true ∧ Memory.wf State.reset.ftab = true ∧ Memory.wf State.reset.node = true
      ∧ Memory.wf State.reset.ctab = true ∧ Memory.wf State.reset.obuf = true := by
  decide

end Sys2Proof.Machine
end

