-- ==== Sys2Proof/Laws/PerInstr.lean ====
section
/-! SUPPORT. The family TableRow: the word of every well-formed instruction has the bits its row of
spec/opcode_table.json fixes (mask and match), in the row's format. -/

namespace Sys2Proof.Laws

/-- The format, mask and match of a row of spec/opcode_table.json. -/
structure TableRow.Row where
  format : Nat
  mask : BitVec 40
  fixed : BitVec 40

/-- A command word's row: all 32 bits fixed. -/
def TableRow.command (w : Word) : TableRow.Row := ⟨32, 0x00FFFFFFFF#40, w.setWidth 40⟩

/-- A bus operation's row: the top byte fixed (W and OFF). -/
def TableRow.bus (top : BitVec 8) : TableRow.Row := ⟨40, 0xFF00000000#40, (top ++ 0#32 : BitVec (8 + 32))⟩

/-- The rows of spec/opcode_table.json; ILLEGAL_CW fixes no bit. -/
def TableRow.row : Instr → TableRow.Row
  | .nop => TableRow.command 0x00000000
  | .clear => TableRow.command 0x00000001
  | .count => TableRow.command 0x00000002
  | .build => TableRow.command 0x00000003
  | .gentab => TableRow.command 0x00000004
  | .pack => TableRow.command 0x00000005
  | .run => TableRow.command 0x00000006
  | .illegalCw _ => ⟨32, 0, 0⟩
  | .rdId => TableRow.bus 0x00#8
  | .rdVersion => TableRow.bus 0x04#8
  | .rdParam0 => TableRow.bus 0x08#8
  | .rdParam1 => TableRow.bus 0x0C#8
  | .rdParam2 => TableRow.bus 0x10#8
  | .rdParam3 => TableRow.bus 0x14#8
  | .rdCtrl => TableRow.bus 0x18#8
  | .rdCmd => TableRow.bus 0x1C#8
  | .rdStatus => TableRow.bus 0x20#8
  | .rdInData => TableRow.bus 0x24#8
  | .rdInLen => TableRow.bus 0x28#8
  | .rdNsym => TableRow.bus 0x2C#8
  | .rdNodeCount => TableRow.bus 0x30#8
  | .rdRootFreq => TableRow.bus 0x34#8
  | .rdBodyBits => TableRow.bus 0x38#8
  | .rdPad => TableRow.bus 0x3C#8
  | .rdOutLen => TableRow.bus 0x40#8
  | .rdOutPtr => TableRow.bus 0x44#8
  | .rdOutData => TableRow.bus 0x48#8
  | .rdTabIndex => TableRow.bus 0x4C#8
  | .rdTabSym => TableRow.bus 0x50#8
  | .rdTabFreq => TableRow.bus 0x54#8
  | .rdTabClen => TableRow.bus 0x58#8
  | .rdTabWsel => TableRow.bus 0x5C#8
  | .rdTabCodew => TableRow.bus 0x60#8
  | .rdNodeIndex => TableRow.bus 0x64#8
  | .rdNodeInfo => TableRow.bus 0x68#8
  | .rdNodeFreq => TableRow.bus 0x6C#8
  | .rdNodeLeft => TableRow.bus 0x70#8
  | .rdNodeRight => TableRow.bus 0x74#8
  | .rdCodeMaxlen => TableRow.bus 0x78#8
  | .rdReserved7c => TableRow.bus 0x7C#8
  | .wrId _ => TableRow.bus 0x80#8
  | .wrVersion _ => TableRow.bus 0x84#8
  | .wrParam0 _ => TableRow.bus 0x88#8
  | .wrParam1 _ => TableRow.bus 0x8C#8
  | .wrParam2 _ => TableRow.bus 0x90#8
  | .wrParam3 _ => TableRow.bus 0x94#8
  | .wrCtrl _ => TableRow.bus 0x98#8
  | .wrCmd _ => TableRow.bus 0x9C#8
  | .wrStatus _ => TableRow.bus 0xA0#8
  | .wrInData _ => TableRow.bus 0xA4#8
  | .wrInLen _ => TableRow.bus 0xA8#8
  | .wrNsym _ => TableRow.bus 0xAC#8
  | .wrNodeCount _ => TableRow.bus 0xB0#8
  | .wrRootFreq _ => TableRow.bus 0xB4#8
  | .wrBodyBits _ => TableRow.bus 0xB8#8
  | .wrPad _ => TableRow.bus 0xBC#8
  | .wrOutLen _ => TableRow.bus 0xC0#8
  | .wrOutPtr _ => TableRow.bus 0xC4#8
  | .wrOutData _ => TableRow.bus 0xC8#8
  | .wrTabIndex _ => TableRow.bus 0xCC#8
  | .wrTabSym _ => TableRow.bus 0xD0#8
  | .wrTabFreq _ => TableRow.bus 0xD4#8
  | .wrTabClen _ => TableRow.bus 0xD8#8
  | .wrTabWsel _ => TableRow.bus 0xDC#8
  | .wrTabCodew _ => TableRow.bus 0xE0#8
  | .wrNodeIndex _ => TableRow.bus 0xE4#8
  | .wrNodeInfo _ => TableRow.bus 0xE8#8
  | .wrNodeFreq _ => TableRow.bus 0xEC#8
  | .wrNodeLeft _ => TableRow.bus 0xF0#8
  | .wrNodeRight _ => TableRow.bus 0xF4#8
  | .wrCodeMaxlen _ => TableRow.bus 0xF8#8
  | .wrReserved7c _ => TableRow.bus 0xFC#8

/-- The bits of a word, in 40 bits. -/
def TableRow.bits : Encoded → Nat × BitVec 40
  | .bow w => (40, w)
  | .cw w => (32, w.setWidth 40)

/-- The word of `i` is in its row's format and has the row's fixed bits. -/
def TableRow.Statement (i : Instr) : Prop :=
  i.wellFormed = true →
    (TableRow.bits (encode i)).1 = (TableRow.row i).format
      ∧ (TableRow.bits (encode i)).2 &&& (TableRow.row i).mask = (TableRow.row i).fixed

/-- The mask of a bus row leaves the top byte. -/
theorem bowWord_and_mask (write : Bool) (off : BitVec 7) (d : Word) :
    bowWord write off d &&& 0xFF00000000#40 = bowWord write off 0 := by
  have hd : (0xFF00000000#40 : BitVec 40) = bowWord true 0x7F#7 0 := by decide
  rw [hd]
  show (BitVec.ofBool write ++ off ++ d : BitVec (1 + 7 + 32)) &&& (BitVec.ofBool true ++ 0x7F#7 ++ 0#32)
    = (BitVec.ofBool write ++ off ++ 0#32)
  rw [BitVec.and_append, BitVec.and_append]
  have h1 : BitVec.ofBool write &&& BitVec.ofBool true = BitVec.ofBool write := by cases write <;> rfl
  have h2 : off &&& 0x7F#7 = off := BitVec.and_allOnes
  rw [h1, h2, BitVec.and_zero]

theorem TableRow.of_write (off : BitVec 7) (v : Word) (top : BitVec 8)
    (h : bowWord true off 0 = (TableRow.bus top).fixed) :
    (TableRow.bits (encodeWrite off v)).1 = (TableRow.bus top).format
      ∧ (TableRow.bits (encodeWrite off v)).2 &&& (TableRow.bus top).mask = (TableRow.bus top).fixed :=
  ⟨rfl, (bowWord_and_mask true off v).trans h⟩

theorem TableRow.nop : TableRow.Statement .nop := fun _ => by decide
theorem TableRow.clear : TableRow.Statement .clear := fun _ => by decide
theorem TableRow.count : TableRow.Statement .count := fun _ => by decide
theorem TableRow.build : TableRow.Statement .build := fun _ => by decide
theorem TableRow.gentab : TableRow.Statement .gentab := fun _ => by decide
theorem TableRow.pack : TableRow.Statement .pack := fun _ => by decide
theorem TableRow.run : TableRow.Statement .run := fun _ => by decide
theorem TableRow.illegalCw (cw : Word) : TableRow.Statement (.illegalCw cw) := fun _ => ⟨rfl, BitVec.and_zero⟩
theorem TableRow.rdId : TableRow.Statement .rdId := fun _ => by decide
theorem TableRow.rdVersion : TableRow.Statement .rdVersion := fun _ => by decide
theorem TableRow.rdParam0 : TableRow.Statement .rdParam0 := fun _ => by decide
theorem TableRow.rdParam1 : TableRow.Statement .rdParam1 := fun _ => by decide
theorem TableRow.rdParam2 : TableRow.Statement .rdParam2 := fun _ => by decide
theorem TableRow.rdParam3 : TableRow.Statement .rdParam3 := fun _ => by decide
theorem TableRow.rdCtrl : TableRow.Statement .rdCtrl := fun _ => by decide
theorem TableRow.rdCmd : TableRow.Statement .rdCmd := fun _ => by decide
theorem TableRow.rdStatus : TableRow.Statement .rdStatus := fun _ => by decide
theorem TableRow.rdInData : TableRow.Statement .rdInData := fun _ => by decide
theorem TableRow.rdInLen : TableRow.Statement .rdInLen := fun _ => by decide
theorem TableRow.rdNsym : TableRow.Statement .rdNsym := fun _ => by decide
theorem TableRow.rdNodeCount : TableRow.Statement .rdNodeCount := fun _ => by decide
theorem TableRow.rdRootFreq : TableRow.Statement .rdRootFreq := fun _ => by decide
theorem TableRow.rdBodyBits : TableRow.Statement .rdBodyBits := fun _ => by decide
theorem TableRow.rdPad : TableRow.Statement .rdPad := fun _ => by decide
theorem TableRow.rdOutLen : TableRow.Statement .rdOutLen := fun _ => by decide
theorem TableRow.rdOutPtr : TableRow.Statement .rdOutPtr := fun _ => by decide
theorem TableRow.rdOutData : TableRow.Statement .rdOutData := fun _ => by decide
theorem TableRow.rdTabIndex : TableRow.Statement .rdTabIndex := fun _ => by decide
theorem TableRow.rdTabSym : TableRow.Statement .rdTabSym := fun _ => by decide
theorem TableRow.rdTabFreq : TableRow.Statement .rdTabFreq := fun _ => by decide
theorem TableRow.rdTabClen : TableRow.Statement .rdTabClen := fun _ => by decide
theorem TableRow.rdTabWsel : TableRow.Statement .rdTabWsel := fun _ => by decide
theorem TableRow.rdTabCodew : TableRow.Statement .rdTabCodew := fun _ => by decide
theorem TableRow.rdNodeIndex : TableRow.Statement .rdNodeIndex := fun _ => by decide
theorem TableRow.rdNodeInfo : TableRow.Statement .rdNodeInfo := fun _ => by decide
theorem TableRow.rdNodeFreq : TableRow.Statement .rdNodeFreq := fun _ => by decide
theorem TableRow.rdNodeLeft : TableRow.Statement .rdNodeLeft := fun _ => by decide
theorem TableRow.rdNodeRight : TableRow.Statement .rdNodeRight := fun _ => by decide
theorem TableRow.rdCodeMaxlen : TableRow.Statement .rdCodeMaxlen := fun _ => by decide
theorem TableRow.rdReserved7c : TableRow.Statement .rdReserved7c := fun _ => by decide
theorem TableRow.wrId (v : Word) : TableRow.Statement (.wrId v) := fun _ =>
  TableRow.of_write 0x00#7 v 0x80#8 (by decide)
theorem TableRow.wrVersion (v : Word) : TableRow.Statement (.wrVersion v) := fun _ =>
  TableRow.of_write 0x04#7 v 0x84#8 (by decide)
theorem TableRow.wrParam0 (v : Word) : TableRow.Statement (.wrParam0 v) := fun _ =>
  TableRow.of_write 0x08#7 v 0x88#8 (by decide)
theorem TableRow.wrParam1 (v : Word) : TableRow.Statement (.wrParam1 v) := fun _ =>
  TableRow.of_write 0x0C#7 v 0x8C#8 (by decide)
theorem TableRow.wrParam2 (v : Word) : TableRow.Statement (.wrParam2 v) := fun _ =>
  TableRow.of_write 0x10#7 v 0x90#8 (by decide)
theorem TableRow.wrParam3 (v : Word) : TableRow.Statement (.wrParam3 v) := fun _ =>
  TableRow.of_write 0x14#7 v 0x94#8 (by decide)
theorem TableRow.wrCtrl (v : Word) : TableRow.Statement (.wrCtrl v) := fun _ =>
  TableRow.of_write 0x18#7 v 0x98#8 (by decide)
theorem TableRow.wrCmd (v : Word) : TableRow.Statement (.wrCmd v) := fun _ =>
  TableRow.of_write 0x1C#7 v 0x9C#8 (by decide)
theorem TableRow.wrStatus (v : Word) : TableRow.Statement (.wrStatus v) := fun _ =>
  TableRow.of_write 0x20#7 v 0xA0#8 (by decide)
theorem TableRow.wrInData (v : Word) : TableRow.Statement (.wrInData v) := fun _ =>
  TableRow.of_write 0x24#7 v 0xA4#8 (by decide)
theorem TableRow.wrInLen (v : Word) : TableRow.Statement (.wrInLen v) := fun _ =>
  TableRow.of_write 0x28#7 v 0xA8#8 (by decide)
theorem TableRow.wrNsym (v : Word) : TableRow.Statement (.wrNsym v) := fun _ =>
  TableRow.of_write 0x2C#7 v 0xAC#8 (by decide)
theorem TableRow.wrNodeCount (v : Word) : TableRow.Statement (.wrNodeCount v) := fun _ =>
  TableRow.of_write 0x30#7 v 0xB0#8 (by decide)
theorem TableRow.wrRootFreq (v : Word) : TableRow.Statement (.wrRootFreq v) := fun _ =>
  TableRow.of_write 0x34#7 v 0xB4#8 (by decide)
theorem TableRow.wrBodyBits (v : Word) : TableRow.Statement (.wrBodyBits v) := fun _ =>
  TableRow.of_write 0x38#7 v 0xB8#8 (by decide)
theorem TableRow.wrPad (v : Word) : TableRow.Statement (.wrPad v) := fun _ =>
  TableRow.of_write 0x3C#7 v 0xBC#8 (by decide)
theorem TableRow.wrOutLen (v : Word) : TableRow.Statement (.wrOutLen v) := fun _ =>
  TableRow.of_write 0x40#7 v 0xC0#8 (by decide)
theorem TableRow.wrOutPtr (v : Word) : TableRow.Statement (.wrOutPtr v) := fun _ =>
  TableRow.of_write 0x44#7 v 0xC4#8 (by decide)
theorem TableRow.wrOutData (v : Word) : TableRow.Statement (.wrOutData v) := fun _ =>
  TableRow.of_write 0x48#7 v 0xC8#8 (by decide)
theorem TableRow.wrTabIndex (v : Word) : TableRow.Statement (.wrTabIndex v) := fun _ =>
  TableRow.of_write 0x4C#7 v 0xCC#8 (by decide)
theorem TableRow.wrTabSym (v : Word) : TableRow.Statement (.wrTabSym v) := fun _ =>
  TableRow.of_write 0x50#7 v 0xD0#8 (by decide)
theorem TableRow.wrTabFreq (v : Word) : TableRow.Statement (.wrTabFreq v) := fun _ =>
  TableRow.of_write 0x54#7 v 0xD4#8 (by decide)
theorem TableRow.wrTabClen (v : Word) : TableRow.Statement (.wrTabClen v) := fun _ =>
  TableRow.of_write 0x58#7 v 0xD8#8 (by decide)
theorem TableRow.wrTabWsel (v : Word) : TableRow.Statement (.wrTabWsel v) := fun _ =>
  TableRow.of_write 0x5C#7 v 0xDC#8 (by decide)
theorem TableRow.wrTabCodew (v : Word) : TableRow.Statement (.wrTabCodew v) := fun _ =>
  TableRow.of_write 0x60#7 v 0xE0#8 (by decide)
theorem TableRow.wrNodeIndex (v : Word) : TableRow.Statement (.wrNodeIndex v) := fun _ =>
  TableRow.of_write 0x64#7 v 0xE4#8 (by decide)
theorem TableRow.wrNodeInfo (v : Word) : TableRow.Statement (.wrNodeInfo v) := fun _ =>
  TableRow.of_write 0x68#7 v 0xE8#8 (by decide)
theorem TableRow.wrNodeFreq (v : Word) : TableRow.Statement (.wrNodeFreq v) := fun _ =>
  TableRow.of_write 0x6C#7 v 0xEC#8 (by decide)
theorem TableRow.wrNodeLeft (v : Word) : TableRow.Statement (.wrNodeLeft v) := fun _ =>
  TableRow.of_write 0x70#7 v 0xF0#8 (by decide)
theorem TableRow.wrNodeRight (v : Word) : TableRow.Statement (.wrNodeRight v) := fun _ =>
  TableRow.of_write 0x74#7 v 0xF4#8 (by decide)
theorem TableRow.wrCodeMaxlen (v : Word) : TableRow.Statement (.wrCodeMaxlen v) := fun _ =>
  TableRow.of_write 0x78#7 v 0xF8#8 (by decide)
theorem TableRow.wrReserved7c (v : Word) : TableRow.Statement (.wrReserved7c v) := fun _ =>
  TableRow.of_write 0x7C#7 v 0xFC#8 (by decide)

end Sys2Proof.Laws
end

