-- ==== Sys2Proof/Laws/Sorting.lean ====
section
/-! SUPPORT. The stable sort, the selection of a minimum, and the size of the tree BUILD makes. -/

namespace Sys2Proof.Machine

theorem stableSortBy_perm {α : Type} (key : α → Nat) (l : List α) : (stableSortBy key l).Perm l :=
  List.perm_insertionSort _ l

@[simp] theorem length_stableSortBy {α : Type} (key : α → Nat) (l : List α) :
    (stableSortBy key l).length = l.length :=
  (stableSortBy_perm key l).length_eq

/-- The result of the sort is ascending by key. -/
theorem stableSortBy_sorted {α : Type} (key : α → Nat) (l : List α) :
    (stableSortBy key l).Pairwise fun a b => key a ≤ key b :=
  haveI : Std.Total fun a b : α => key a ≤ key b := ⟨fun a b => Nat.le_total (key a) (key b)⟩
  haveI : IsTrans α fun a b => key a ≤ key b := ⟨fun _ _ _ => Nat.le_trans⟩
  List.pairwise_insertionSort _ l

/-- The minimum taken out: a permutation of the list, with the smallest key. -/
theorem takeFirstMin_spec {α : Type} (key : α → Nat) (l : List α) (m : α) (rest : List α)
    (h : takeFirstMin key l = some (m, rest)) : (m :: rest).Perm l ∧ ∀ x ∈ l, key m ≤ key x := by
  induction l generalizing m rest with
  | nil => simp [takeFirstMin] at h
  | cons x xs ih =>
    simp only [takeFirstMin] at h
    split at h
    · rename_i hn
      obtain ⟨rfl, rfl⟩ : x = m ∧ [] = rest := by simpa using h
      cases xs with
      | nil => simp
      | cons y ys =>
        simp only [takeFirstMin] at hn
        split at hn
        · simp at hn
        · split at hn <;> simp at hn
    · rename_i m' rest' hs
      obtain ⟨hp, hm⟩ := ih m' rest' hs
      split at h
      · rename_i hle
        obtain ⟨rfl, rfl⟩ : x = m ∧ xs = rest := by simpa using h
        refine ⟨List.Perm.refl _, fun y hy => ?_⟩
        rcases List.mem_cons.1 hy with rfl | hy
        · exact Nat.le_refl _
        · exact Nat.le_trans hle (hm y hy)
      · rename_i hle
        obtain ⟨rfl, rfl⟩ : m' = m ∧ x :: rest' = rest := by simpa using h
        refine ⟨(List.Perm.swap x m' rest').trans (hp.cons x), fun y hy => ?_⟩
        rcases List.mem_cons.1 hy with rfl | hy
        · exact Nat.le_of_not_le hle
        · exact hm y hy

/-- A minimum exists in every list that is not empty. -/
theorem takeFirstMin_isSome {α : Type} (key : α → Nat) (x : α) (xs : List α) :
    ∃ m rest, takeFirstMin key (x :: xs) = some (m, rest) := by
  simp only [takeFirstMin]
  split
  · exact ⟨_, _, rfl⟩
  · split <;> exact ⟨_, _, rfl⟩

/-- The pair selected and what is left: together the working list; min1 has the smallest key, then min2. -/
theorem selectPair_spec (nodes : List Node) (wl : List Nat) (a b : Nat) (rest : List Nat)
    (h : selectPair nodes wl = some ((a, b), rest)) :
    (a :: b :: rest).Perm wl ∧ nodeKey nodes a ≤ nodeKey nodes b ∧ ∀ x ∈ rest, nodeKey nodes b ≤ nodeKey nodes x := by
  unfold selectPair at h
  split at h
  · simp at h
  · rename_i m r1 h1
    split at h
    · simp at h
    · rename_i m2 r2 h2
      obtain ⟨p1, q1⟩ := takeFirstMin_spec _ _ _ _ h1
      obtain ⟨p2, q2⟩ := takeFirstMin_spec _ _ _ _ h2
      have hle : nodeKey nodes m ≤ nodeKey nodes m2 :=
        q1 m2 (p1.subset (List.mem_cons_of_mem _ (p2.subset (List.mem_cons_self))))
      have ho : orderPair nodes m m2 = (m, m2) := if_neg (Nat.not_lt.2 hle)
      rw [ho] at h
      obtain ⟨⟨rfl, rfl⟩, rfl⟩ : (m = a ∧ m2 = b) ∧ r2 = rest := by simpa using h
      exact ⟨(p2.cons m).trans p1, hle, fun x hx => q2 x (p2.subset (List.mem_cons_of_mem _ hx))⟩

/-- A pair is selected from every working list of at least two nodes. -/
theorem selectPair_isSome (nodes : List Node) (wl : List Nat) (h : 2 ≤ wl.length) :
    ∃ a b rest, selectPair nodes wl = some ((a, b), rest) := by
  match wl, h with
  | x :: y :: ys, _ =>
    obtain ⟨m, r1, h1⟩ := takeFirstMin_isSome (nodeKey nodes) x (y :: ys)
    have hl : r1.length = ys.length + 1 := by
      simpa using (takeFirstMin_spec _ _ _ _ h1).1.length_eq
    match r1, hl with
    | z :: zs, _ =>
      obtain ⟨m2, r2, h2⟩ := takeFirstMin_isSome (nodeKey nodes) z zs
      exact ⟨(orderPair nodes m m2).1, (orderPair nodes m m2).2, r2, by simp only [selectPair, h1, h2]⟩

/-- The nodes made so far stay where they are, and each round but the last adds one (43_tree_builder.md R116). -/
theorem mergeLoop_spec (k : Nat) (nodes : List Node) (wl : List Nat) (hk : wl.length ≤ k) (hw : wl ≠ []) :
    ∃ made, mergeLoop k nodes wl = nodes ++ made ∧ made.length + 1 = wl.length := by
  induction k generalizing nodes wl with
  | zero => exact absurd (List.eq_nil_of_length_eq_zero (Nat.le_zero.1 hk)) hw
  | succ k ih =>
    simp only [mergeLoop]
    by_cases h2 : 2 ≤ wl.length
    · obtain ⟨a, b, rest, hs⟩ := selectPair_isSome nodes wl h2
      have hl := (selectPair_spec _ _ _ _ _ hs).1.length_eq
      simp only [List.length_cons] at hl
      simp only [hs]
      generalize hwl : stableSortBy (nodeKey (nodes ++ [mergeNode nodes a b])) (rest ++ [nodes.length]) = wl'
      have hl' : wl'.length = rest.length + 1 := by rw [← hwl]; simp
      obtain ⟨made, hm, hn⟩ := ih (nodes ++ [mergeNode nodes a b]) wl' (by omega)
        (fun h => by rw [h] at hl'; simp at hl')
      exact ⟨mergeNode nodes a b :: made, by rw [hm]; simp, by simp only [List.length_cons]; omega⟩
    · have h1 : wl.length = 1 := by
        have := List.length_pos_iff.2 hw
        omega
      have hs : selectPair nodes wl = none := by
        rcases h : selectPair nodes wl with _ | ⟨⟨a, b⟩, rest⟩
        · rfl
        · have := (selectPair_spec _ _ _ _ _ h).1.length_eq
          simp only [List.length_cons] at this
          omega
      simp only [hs]
      exact ⟨[], by simp, by simp [h1]⟩

/-- BUILD makes 2·n − 1 nodes, the first n of them the leaves (43_tree_builder.md R112, R116). -/
theorem buildNodes_spec (freqs : List Word) (h : freqs ≠ []) :
    ∃ made, buildNodes freqs = freqs.map Node.leaf ++ made ∧ made.length + 1 = freqs.length := by
  obtain ⟨made, hm, hl⟩ := mergeLoop_spec freqs.length (freqs.map .leaf) (List.range freqs.length) (by simp)
    (by simpa using h)
  exact ⟨made, hm, by simpa using hl⟩

theorem length_buildNodes (freqs : List Word) (h : freqs ≠ []) : (buildNodes freqs).length = 2 * freqs.length - 1 := by
  obtain ⟨made, hm, hl⟩ := buildNodes_spec freqs h
  rw [hm, List.length_append, List.length_map]
  omega

end Sys2Proof.Machine
end

