-- ==== Sys2Proof/Laws/Tree.lean ====
section
/-! SUPPORT. The order of the working list, and what each round of the tree builder joins (43_tree_builder.md R113, R115). -/

namespace Sys2Proof.Machine

/-- Nodes of equal frequency stand in the order they were made. -/
def tiesInOrder (key : Nat → Nat) (wl : List Nat) : Prop := wl.Pairwise fun x y => key x = key y → x < y

theorem orderedInsert_tiesInOrder (key : Nat → Nat) (a : Nat) (l : List Nat) (ha : ∀ y ∈ l, key a = key y → a < y)
    (h : tiesInOrder key l) : tiesInOrder key (l.orderedInsert (fun x y => key x ≤ key y) a) := by
  induction l with
  | nil => simp [tiesInOrder]
  | cons b l ih =>
    obtain ⟨hb, hl⟩ := List.pairwise_cons.1 h
    rw [List.orderedInsert_cons]
    split
    · exact List.pairwise_cons.2 ⟨ha, h⟩
    · rename_i hlt
      refine List.pairwise_cons.2 ⟨fun y hy he => ?_, ih (fun y hy => ha y (List.mem_cons_of_mem _ hy)) hl⟩
      rcases List.mem_cons.1 ((List.perm_orderedInsert _ a l).subset hy) with rfl | hy
      · exact absurd (Nat.le_of_eq he.symm) hlt
      · exact hb y hy he

/-- The sort is stable (43_tree_builder.md R115). -/
theorem stableSortBy_tiesInOrder (key : Nat → Nat) (l : List Nat) (h : tiesInOrder key l) :
    tiesInOrder key (stableSortBy key l) := by
  induction l with
  | nil => exact h
  | cons a l ih =>
    obtain ⟨ha, hl⟩ := List.pairwise_cons.1 h
    refine orderedInsert_tiesInOrder key a _ (fun y hy => ?_) (ih hl)
    exact ha y ((stableSortBy_perm key l).subset hy)

/-- The minimum taken out is the first of its frequency, and the rest keeps its order (43_tree_builder.md R113). -/
theorem takeFirstMin_first (key : Nat → Nat) (l : List Nat) (m : Nat) (rest : List Nat)
    (h : takeFirstMin key l = some (m, rest)) (ht : tiesInOrder key l) :
    rest.Sublist l ∧ ∀ x ∈ rest, key m < key x ∨ (key m = key x ∧ m < x) := by
  induction l generalizing m rest with
  | nil => simp [takeFirstMin] at h
  | cons x xs ih =>
    obtain ⟨hx, hxs⟩ := List.pairwise_cons.1 ht
    simp only [takeFirstMin] at h
    split at h
    · obtain ⟨rfl, rfl⟩ : x = m ∧ [] = rest := by simpa using h
      simp
    · rename_i m' rest' hs
      obtain ⟨hp, hm⟩ := takeFirstMin_spec key xs m' rest' hs
      obtain ⟨hsub, hfirst⟩ := ih m' rest' hs hxs
      split at h
      · rename_i hle
        obtain ⟨rfl, rfl⟩ : x = m ∧ xs = rest := by simpa using h
        refine ⟨List.sublist_cons_self _ _, fun y hy => ?_⟩
        rcases Nat.lt_or_eq_of_le (Nat.le_trans hle (hm y hy)) with hlt | he
        · exact .inl hlt
        · exact .inr ⟨he, hx y hy he⟩
      · rename_i hle
        obtain ⟨rfl, rfl⟩ : m' = m ∧ x :: rest' = rest := by simpa using h
        refine ⟨hsub.cons_cons x, fun y hy => ?_⟩
        rcases List.mem_cons.1 hy with rfl | hy
        · exact .inl (Nat.lt_of_not_le hle)
        · exact hfirst y hy

/-- The pair selected stands first in the working list, in order, and the rest keeps its order. -/
theorem selectPair_first (nodes : List Node) (wl : List Nat) (a b : Nat) (rest : List Nat)
    (h : selectPair nodes wl = some ((a, b), rest)) (ht : tiesInOrder (nodeKey nodes) wl) :
    rest.Sublist wl ∧ comesBefore nodes a b ∧ ∀ x ∈ rest, comesBefore nodes b x := by
  unfold selectPair at h
  split at h
  · simp at h
  · rename_i m r1 h1
    split at h
    · simp at h
    · rename_i m2 r2 h2
      obtain ⟨s1, f1⟩ := takeFirstMin_first _ _ _ _ h1 ht
      obtain ⟨s2, f2⟩ := takeFirstMin_first _ _ _ _ h2 (ht.sublist s1)
      have hb := f1 m2 ((takeFirstMin_spec _ _ _ _ h2).1.subset List.mem_cons_self)
      have ho : orderPair nodes m m2 = (m, m2) := if_neg (by omega)
      rw [ho] at h
      obtain ⟨⟨rfl, rfl⟩, rfl⟩ : (m = a ∧ m2 = b) ∧ r2 = rest := by simpa using h
      exact ⟨s2.trans s1, hb, f2⟩

/-! ### Nodes made later change nothing about the earlier ones -/

theorem getD_append_left (nodes made : List Node) (x : Nat) (h : x < nodes.length) :
    (nodes ++ made).getD x default = nodes.getD x default := List.getD_append _ _ _ _ h

theorem nodeKey_append (nodes made : List Node) (x : Nat) (h : x < nodes.length) :
    nodeKey (nodes ++ made) x = nodeKey nodes x := by
  unfold nodeKey; rw [getD_append_left nodes made x h]

theorem inWorkingList_append (nodes made : List Node) (v x : Nat) (h : v ≤ nodes.length) :
    inWorkingList (nodes ++ made) v x ↔ inWorkingList nodes v x := by
  refine and_congr_right fun _ => forall_congr' fun u => forall_congr' fun hu => ?_
  rw [getD_append_left nodes made u (Nat.lt_of_lt_of_le hu h)]

theorem comesBefore_append (nodes made : List Node) (x y : Nat) (hx : x < nodes.length) (hy : y < nodes.length) :
    comesBefore (nodes ++ made) x y ↔ comesBefore nodes x y := by
  unfold comesBefore; rw [nodeKey_append nodes made x hx, nodeKey_append nodes made y hy]

theorem mergesFirstTwo_append (nodes made : List Node) (v l r : Nat) (h : v ≤ nodes.length) :
    mergesFirstTwo nodes v l r → mergesFirstTwo (nodes ++ made) v l r := by
  rintro ⟨hl, hr, hlr, hx⟩
  have lt {x} (hx : inWorkingList nodes v x) : x < nodes.length := Nat.lt_of_lt_of_le hx.1 h
  refine ⟨(inWorkingList_append _ _ _ _ h).2 hl, (inWorkingList_append _ _ _ _ h).2 hr,
    (comesBefore_append _ _ _ _ (lt hl) (lt hr)).2 hlr, fun x hw h1 h2 => ?_⟩
  have hw := (inWorkingList_append _ _ _ _ h).1 hw
  exact (comesBefore_append _ _ _ _ (lt hr) (lt hw)).2 (hx x hw h1 h2)

theorem mergeNode_append (nodes made : List Node) (a b : Nat) (ha : a < nodes.length) (hb : b < nodes.length) :
    mergeNode (nodes ++ made) a b = mergeNode nodes a b := by
  unfold mergeNode; rw [getD_append_left _ _ _ ha, getD_append_left _ _ _ hb]

/-- The loop only appends. -/
theorem mergeLoop_prefix (k : Nat) (nodes : List Node) (wl : List Nat) :
    ∃ made, mergeLoop k nodes wl = nodes ++ made := by
  induction k generalizing nodes wl with
  | zero => exact ⟨[], by simp [mergeLoop]⟩
  | succ k ih =>
    simp only [mergeLoop]
    split
    · exact ⟨[], by simp⟩
    · rename_i a b rest _
      obtain ⟨made, hm⟩ := ih (nodes ++ [mergeNode nodes a b]) _
      exact ⟨mergeNode nodes a b :: made, by rw [hm]; simp⟩

/-! ### The rounds -/

/-- What holds before each round: children are older than their parents, the working list holds the nodes that are no
child, and ties stand in the order they were made. -/
structure Forest (nodes : List Node) (wl : List Nat) : Prop where
  older : ∀ u f l r, nodes.getD u default = .internal f l r → l < u ∧ r < u
  mem : ∀ x, x ∈ wl ↔ inWorkingList nodes nodes.length x
  ties : tiesInOrder (nodeKey nodes) wl

theorem Forest.leaves (freqs : List Word) : Forest (freqs.map .leaf) (List.range freqs.length) := by
  have leaf : ∀ u, ∃ f, (freqs.map Node.leaf).getD u default = .leaf f := by
    intro u
    rw [List.getD_eq_getElem?_getD, List.getElem?_map]
    cases freqs[u]? with
    | none => exact ⟨_, rfl⟩
    | some f => exact ⟨f, rfl⟩
  refine ⟨fun u f l r h => ?_, fun x => ?_, List.Pairwise.imp (S := fun x y => _ → x < y) (fun h _ => h) List.pairwise_lt_range⟩
  · obtain ⟨f', hf⟩ := leaf u
    rw [hf] at h; cases h
  · refine ⟨fun hx => ⟨by simpa using hx, fun u _ f l r h => ?_⟩, fun h => by simpa using h.1⟩
    obtain ⟨f', hf⟩ := leaf u
    rw [hf] at h; cases h

/-- One round joins the first two nodes of the working list, and leaves a forest. -/
theorem Forest.round {nodes : List Node} {wl rest : List Nat} {a b : Nat} (hF : Forest nodes wl)
    (h : selectPair nodes wl = some ((a, b), rest)) :
    mergesFirstTwo nodes nodes.length a b ∧ Forest (nodes ++ [mergeNode nodes a b])
      (stableSortBy (nodeKey (nodes ++ [mergeNode nodes a b])) (rest ++ [nodes.length])) := by
  obtain ⟨hsub, hab, hrest⟩ := selectPair_first nodes wl a b rest h hF.ties
  have hperm := (selectPair_spec nodes wl a b rest h).1
  have hmem : ∀ x, inWorkingList nodes nodes.length x ↔ x = a ∨ x = b ∨ x ∈ rest := fun x => by
    rw [← hF.mem, ← hperm.mem_iff]; simp
  have irrefl : ∀ x, ¬ comesBefore nodes x x := fun x hx => by unfold comesBefore at hx; omega
  have ha := (hmem a).2 (.inl rfl)
  have hb := (hmem b).2 (.inr (.inl rfl))
  have har : a ∉ rest := fun hr => by
    have := hrest a hr; unfold comesBefore at this hab; omega
  have hbr : b ∉ rest := fun hr => irrefl b (hrest b hr)
  have new : (nodes ++ [mergeNode nodes a b]).getD nodes.length default = mergeNode nodes a b := by simp
  have lt : ∀ x ∈ rest, x < nodes.length := fun x hx => ((hmem x).2 (.inr (.inr hx))).1
  refine ⟨⟨ha, hb, hab, fun x hx h1 h2 => hrest x (((hmem x).1 hx).resolve_left h1 |>.resolve_left h2)⟩, ?_, ?_, ?_⟩
  · intro u f l r hu
    rcases Nat.lt_trichotomy u nodes.length with hlt | rfl | hgt
    · rw [getD_append_left _ _ _ hlt] at hu
      exact hF.older u f l r hu
    · rw [new] at hu
      obtain ⟨_, rfl, rfl⟩ : _ ∧ a = l ∧ b = r := by simpa [mergeNode] using hu
      exact ⟨ha.1, hb.1⟩
    · rw [List.getD_eq_default _ _ (by simp; omega)] at hu
      cases hu
  · intro x
    rw [(stableSortBy_perm _ _).mem_iff]
    have hlen : (nodes ++ [mergeNode nodes a b]).length = nodes.length + 1 := by simp
    rw [hlen]
    constructor
    · intro hx
      rcases List.mem_append.1 hx with hx | hx
      · refine ⟨Nat.lt_succ_of_lt (lt x hx), fun u hu f l r hn => ?_⟩
        rcases Nat.lt_or_eq_of_le (Nat.le_of_lt_succ hu) with hlt | rfl
        · rw [getD_append_left _ _ _ hlt] at hn
          exact ((hmem x).2 (.inr (.inr hx))).2 u hlt f l r hn
        · rw [new] at hn
          obtain ⟨_, rfl, rfl⟩ : _ ∧ a = l ∧ b = r := by simpa [mergeNode] using hn
          exact ⟨fun he => har (he ▸ hx), fun he => hbr (he ▸ hx)⟩
      · obtain rfl : x = nodes.length := by simpa using hx
        refine ⟨Nat.lt_succ_self _, fun u hu f l r hn => ?_⟩
        rcases Nat.lt_or_eq_of_le (Nat.le_of_lt_succ hu) with hlt | rfl
        · rw [getD_append_left _ _ _ hlt] at hn
          have := hF.older u f l r hn
          omega
        · rw [new] at hn
          obtain ⟨_, rfl, rfl⟩ : _ ∧ a = l ∧ b = r := by simpa [mergeNode] using hn
          have h1 := ha.1
          have h2 := hb.1
          omega
    · rintro ⟨hx, hc⟩
      rcases Nat.lt_or_eq_of_le (Nat.le_of_lt_succ hx) with hlt | rfl
      · have hold : inWorkingList nodes nodes.length x := by
          refine ⟨hlt, fun u hu f l r hn => hc u (Nat.lt_succ_of_lt hu) f l r ?_⟩
          rw [getD_append_left _ _ _ hu]; exact hn
        have hne := hc nodes.length (Nat.lt_succ_self _) _ a b new
        exact List.mem_append_left _ (((hmem x).1 hold).resolve_left hne.1 |>.resolve_left hne.2)
      · simp
  · refine stableSortBy_tiesInOrder _ _ (List.pairwise_append.2 ⟨?_, by simp, fun x hx y hy _ => ?_⟩)
    · refine (hF.ties.sublist hsub).imp_of_mem fun {x y} hx hy hxy he => hxy ?_
      rwa [nodeKey_append _ _ _ (lt x hx), nodeKey_append _ _ _ (lt y hy)] at he
    · obtain rfl : y = nodes.length := by simpa using hy
      exact lt x hx

/-- Every node the loop makes joins the first two nodes of the working list it is made from. -/
theorem mergeLoop_merges (k : Nat) (nodes : List Node) (wl : List Nat) (hF : Forest nodes wl) (v : Nat)
    (hv : nodes.length ≤ v) (hlt : v < (mergeLoop k nodes wl).length) :
    ∃ l r, (mergeLoop k nodes wl).getD v default = mergeNode (mergeLoop k nodes wl) l r
      ∧ mergesFirstTwo (mergeLoop k nodes wl) v l r := by
  induction k generalizing nodes wl with
  | zero => simp only [mergeLoop] at hlt; omega
  | succ k ih =>
    cases hs : selectPair nodes wl with
    | none => simp only [mergeLoop, hs] at hlt; omega
    | some p =>
      obtain ⟨⟨a, b⟩, rest⟩ := p
      obtain ⟨hm, hF'⟩ := hF.round hs
      simp only [mergeLoop, hs] at hlt ⊢
      rcases Nat.lt_or_eq_of_le hv with hgt | rfl
      · exact ih _ _ hF' (by simpa using hgt) hlt
      · obtain ⟨made, hp⟩ := mergeLoop_prefix k (nodes ++ [mergeNode nodes a b]) (stableSortBy
          (nodeKey (nodes ++ [mergeNode nodes a b])) (rest ++ [nodes.length]))
        rw [hp, List.append_assoc]
        refine ⟨a, b, ?_, mergesFirstTwo_append _ _ _ _ _ (Nat.le_refl _) hm⟩
        rw [mergeNode_append _ _ _ _ hm.1.1 hm.2.1.1]
        simp

/-- What BUILD's rounds join (43_tree_builder.md R111, R113): the first two nodes of the working list. -/
theorem buildNodes_merges (freqs : List Word) (v : Nat) (hv : freqs.length ≤ v) (hlt : v < (buildNodes freqs).length) :
    ∃ l r, (buildNodes freqs).getD v default = mergeNode (buildNodes freqs) l r
      ∧ mergesFirstTwo (buildNodes freqs) v l r :=
  mergeLoop_merges _ _ _ (Forest.leaves freqs) v (by simpa using hv) hlt

end Sys2Proof.Machine
end

