-- ==== Sys2Proof/Tests/Slice0.lean ====
section
/-! SUPPORT. Small tests. Words are written out from 30_encoding.md R78 to R80 (top byte (W << 7) | OFF), expected values
are those of the vectors of 95_test_vectors.md or of the examples in the rules. Then one witness per statement with
hypotheses. -/

namespace Sys2Proof.Tests

open Sys2Proof Sys2Proof.Machine

/-! ### Well-formed instructions (30_encoding.md R79, R81) -/

theorem test_illformed_illegalCw : (Instr.illegalCw 0x00000006).wellFormed = false := by decide

theorem test_wellformed_illegalCw : (Instr.illegalCw 0x00000007).wellFormed = true := by decide

/-! ### Decoding: every constructor from a word of its row -/

/-- Reads: W = 0, DATA 0. -/
def readWords : List (Nat × Instr) :=
  [(0x0000000000, .rdId), (0x0400000000, .rdVersion),
    (0x0800000000, .rdParam0), (0x0C00000000, .rdParam1),
    (0x1000000000, .rdParam2), (0x1400000000, .rdParam3),
    (0x1800000000, .rdCtrl), (0x1C00000000, .rdCmd),
    (0x2000000000, .rdStatus), (0x2400000000, .rdInData),
    (0x2800000000, .rdInLen), (0x2C00000000, .rdNsym),
    (0x3000000000, .rdNodeCount), (0x3400000000, .rdRootFreq),
    (0x3800000000, .rdBodyBits), (0x3C00000000, .rdPad),
    (0x4000000000, .rdOutLen), (0x4400000000, .rdOutPtr),
    (0x4800000000, .rdOutData), (0x4C00000000, .rdTabIndex),
    (0x5000000000, .rdTabSym), (0x5400000000, .rdTabFreq),
    (0x5800000000, .rdTabClen), (0x5C00000000, .rdTabWsel),
    (0x6000000000, .rdTabCodew), (0x6400000000, .rdNodeIndex),
    (0x6800000000, .rdNodeInfo), (0x6C00000000, .rdNodeFreq),
    (0x7000000000, .rdNodeLeft), (0x7400000000, .rdNodeRight),
    (0x7800000000, .rdCodeMaxlen), (0x7C00000000, .rdReserved7c)]

/-- Writes: W = 1, each with a DATA word of its own. -/
def writeWords : List (Nat × Instr) :=
  [(0x8080000001, .wrId 0x80000001), (0x8480000002, .wrVersion 0x80000002),
    (0x8880000003, .wrParam0 0x80000003), (0x8C80000004, .wrParam1 0x80000004),
    (0x9080000005, .wrParam2 0x80000005), (0x9480000006, .wrParam3 0x80000006),
    (0x9880000007, .wrCtrl 0x80000007), (0x9C80000008, .wrCmd 0x80000008),
    (0xA080000009, .wrStatus 0x80000009), (0xA48000000A, .wrInData 0x8000000A),
    (0xA88000000B, .wrInLen 0x8000000B), (0xAC8000000C, .wrNsym 0x8000000C),
    (0xB08000000D, .wrNodeCount 0x8000000D), (0xB48000000E, .wrRootFreq 0x8000000E),
    (0xB88000000F, .wrBodyBits 0x8000000F), (0xBC80000010, .wrPad 0x80000010),
    (0xC080000011, .wrOutLen 0x80000011), (0xC480000012, .wrOutPtr 0x80000012),
    (0xC880000013, .wrOutData 0x80000013), (0xCC80000014, .wrTabIndex 0x80000014),
    (0xD080000015, .wrTabSym 0x80000015), (0xD480000016, .wrTabFreq 0x80000016),
    (0xD880000017, .wrTabClen 0x80000017), (0xDC80000018, .wrTabWsel 0x80000018),
    (0xE080000019, .wrTabCodew 0x80000019), (0xE48000001A, .wrNodeIndex 0x8000001A),
    (0xE88000001B, .wrNodeInfo 0x8000001B), (0xEC8000001C, .wrNodeFreq 0x8000001C),
    (0xF08000001D, .wrNodeLeft 0x8000001D), (0xF48000001E, .wrNodeRight 0x8000001E),
    (0xF88000001F, .wrCodeMaxlen 0x8000001F), (0xFC80000020, .wrReserved7c 0x80000020)]

/-- Command words (30_encoding.md R80, R81; vector CM-6). -/
def commandWords : List (Nat × Instr) :=
  [(0x00000000, .nop), (0x00000001, .clear), (0x00000002, .count), (0x00000003, .build), (0x00000004, .gentab),
    (0x00000005, .pack), (0x00000006, .run), (0x00000007, .illegalCw 0x07), (0x000000FF, .illegalCw 0xFF),
    (0x00000101, .illegalCw 0x101)]

theorem test_decode_reads : readWords.all (fun p => decodeTableWord 40 p.1 == some p.2) = true := by decide

theorem test_decode_writes : writeWords.all (fun p => decodeTableWord 40 p.1 == some p.2) = true := by decide

theorem test_decode_commands : commandWords.all (fun p => decodeTableWord 32 p.1 == some p.2) = true := by decide

/-- The DATA of a read is ignored (93_implementation_defined.md I20). -/
theorem test_decode_read_data_ignored : decodeTableWord 40 0x20FFFFFFFF = some .rdStatus := by decide

/-- A misaligned BOW denotes no instruction (30_encoding.md R78). -/
theorem test_decode_misaligned : decode (.bow 0x9E00000001#40) = .error (.misaligned true 0x1E#7) := by decide

/-- `wr CMD, 0x06` bit by bit: W = 1, OFF = 0011100, DATA = 0…0110 (30_encoding.md R88). -/
theorem test_decode_cmd_run_bits :
    decode (.bow 0b1001110000000000000000000000000000000110#40) = .ok (.wrCmd 0x00000006) := by decide

/-! ### Every row runs as the first step after reset -/

/-- Does a step answer a next state? -/
def answers : Host.Outcome State Fault Refusal → Bool
  | .next _ => true
  | .fault _ => false
  | .refused _ => false

theorem test_first_step_reads :
    readWords.all (fun p => answers (step (State.reset.withFetchWord 40 p.1))) = true := by decide

theorem test_first_step_writes :
    writeWords.all (fun p => answers (step (State.reset.withFetchWord 40 p.1))) = true := by decide

theorem test_first_step_commands :
    commandWords.all (fun p => answers (step (State.reset.withFetchWord 32 p.1))) = true := by decide

/-! ### Scenario 1, "aaab" (vectors SRC-1, P1): the state after each stage -/

/-- The four symbols pushed. -/
def pushedAaab : State :=
  { State.reset with inLen := 4, ibuf := [(0, 0x61), (1, 0x61), (2, 0x61), (3, 0x62)] }

/-- After COUNT: FTAB = [(0x62, 1), (0x61, 3)]. -/
def countedAaab : State :=
  { pushedAaab with phase := .counted, done := true, nsym := 2, ftab := [(0, ⟨0x62, 1⟩), (1, ⟨0x61, 3⟩)] }

/-- After BUILD: NODE[2] = Internal(4, 0, 1). -/
def builtAaab : State :=
  { countedAaab with
    phase := .built, nodeCount := 3, rootFreq := 4, node := [(0, .leaf 1), (1, .leaf 3), (2, .internal 4 0 1)] }

/-- After GENTAB: codes "0" and "1". -/
def tabledAaab : State :=
  { builtAaab with phase := .tabled, codeMaxlen := 1, ctab := [(0, [false]), (1, [true])] }

/-- After PACK: OBUF = 04 E0. -/
def packedAaab : State :=
  { tabledAaab with phase := .packed, outLen := 2, bodyBits := 4, pad := 4, obuf := [(0, 0x04), (1, 0xE0)] }

/-- An operation accepted in `s`, its core step not yet taken. -/
def accepted (op : Operation) (s : State) : State := { s with done := false, pending := some op }

/-- The error state of `s` (60_exceptions.md R145). -/
def failedWith (e : Err) (s : State) : State :=
  { s with phase := .error, err := some e, done := true, outLen := 0 }

/-! ### Commands and the core -/

theorem test_count_accepted : exec .count pushedAaab = .next (accepted .count pushedAaab) := by rfl

theorem test_count_result : (accepted .count pushedAaab).coreStep = countedAaab := by decide

theorem test_build_accepted_clears_done :
    exec .build countedAaab = .next { countedAaab with done := false, pending := some .build } := by rfl

theorem test_build_result : (accepted .build countedAaab).coreStep = builtAaab := by decide

theorem test_gentab_accepted : exec .gentab builtAaab = .next (accepted .gentab builtAaab) := by rfl

theorem test_gentab_result : (accepted .gentab builtAaab).coreStep = tabledAaab := by decide

theorem test_pack_accepted : exec .pack tabledAaab = .next (accepted .pack tabledAaab) := by rfl

theorem test_pack_result : (accepted .pack tabledAaab).coreStep = packedAaab := by decide

theorem test_run_accepted : exec .run pushedAaab = .next (accepted .run pushedAaab) := by rfl

theorem test_run_result : (accepted .run pushedAaab).coreStep = packedAaab := by decide

/-- Vector SRC-3: RUN of an empty input. -/
theorem test_run_empty : (accepted .run State.reset).coreStep = failedWith .emptyAlphabet State.reset := by decide

/-- Vector CM-3. -/
theorem test_build_in_idle : exec .build State.reset = .next (failedWith .sequence State.reset) := by rfl

/-- Vector CM-6. -/
theorem test_illegal_command :
    exec (.illegalCw 0x101) State.reset = .next (failedWith .illegalCommand State.reset) := by rfl

/-- Vector CM-7. -/
theorem test_illegal_command_ignored_in_error :
    exec (.illegalCw 0x07) (failedWith .sequence State.reset) = .next (failedWith .sequence State.reset) := by rfl

/-- Vector CM-1. -/
theorem test_nop : exec .nop countedAaab = .next countedAaab := by rfl

/-- Vector CM-9: CLEAR aborts a pending RUN and keeps CTRL. -/
theorem test_clear_aborts :
    exec .clear (accepted .run { pushedAaab with ie := true, padMode := true }) =
      .next { State.reset with ie := true, padMode := true, ibuf := pushedAaab.ibuf } := by rfl

/-- Vector BLD-6, the stability counter-vector: 3 = I(2, 0, 1), 4 = I(4, 2, 3). -/
theorem test_build_stable :
    buildNodes [1, 1, 2] = [.leaf 1, .leaf 1, .leaf 2, .internal 2 0 1, .internal 4 2 3] := by decide

/-- Vector BLD-8, "mississippi". -/
theorem test_build_mississippi :
    (buildNodes [1, 2, 4, 4]).drop 4 = [.internal 3 0 1, .internal 7 4 2, .internal 11 3 5] := by decide

/-- Vector CNT-3: ties ordered by symbol. -/
theorem test_count_ties :
    frequencyTable [0x41, 0x61, 0x42, 0x62] = [⟨0x41, 1⟩, ⟨0x42, 1⟩, ⟨0x61, 1⟩, ⟨0x62, 1⟩] := by decide

/-- Vector GT-6: the codes of "abccdddeeeee". -/
theorem test_gentab_codes :
    codeTable (buildNodes [1, 1, 2, 3, 5]) 5 =
      [[true, true, true, false], [true, true, true, true], [true, true, false], [true, false], [false]] := by decide

/-- Vectors PCK-3 and PCK-4: the padding quirk and the corrected padding of an aligned body. -/
theorem test_pack_aligned_body :
    (streamBytes (packStream [false, true, false, true, false, true, false, true] (padCount false 8))
        = [0x08, 0x55, 0x00])
      ∧ streamBytes (packStream [false, true, false, true, false, true, false, true] (padCount true 8))
        = [0x00, 0x55] := by decide

/-! ### Reads -/

/-- The value a read answers. -/
def readValue : Host.Outcome State Fault Refusal → Option Word
  | .next t => some t.rdata
  | .fault _ => none
  | .refused _ => none

/-- Vector HA-1. -/
theorem test_read_identification :
    [Instr.rdId, .rdVersion, .rdParam0, .rdParam1, .rdParam2, .rdParam3, .rdCtrl, .rdStatus].map
      (fun i => readValue (exec i State.reset)) =
      [some 0x48554646, some 0x1, some 0x2015, some 0x100, some 0x10000, some 0x10000, some 0x0, some 0x0] := by decide

/-- Program P1's end state, and 0 for CMD, IN_DATA and offset 0x7C. -/
theorem test_read_counts :
    [Instr.rdInLen, .rdNsym, .rdNodeCount, .rdRootFreq, .rdBodyBits, .rdPad, .rdOutLen, .rdOutPtr, .rdTabIndex,
      .rdTabWsel, .rdNodeIndex, .rdCodeMaxlen, .rdCmd, .rdInData, .rdReserved7c, .rdStatus].map
      (fun i => readValue (exec i packedAaab)) =
      [some 4, some 2, some 3, some 4, some 4, some 4, some 2, some 0, some 0, some 0, some 0, some 1, some 0, some 0,
        some 0, some 0x42] := by decide

/-- Vector HA-9: reads while busy. -/
theorem test_read_busy :
    [Instr.rdStatus, .rdId, .rdCtrl, .rdInLen, .rdOutData].map
      (fun i => readValue (exec i (accepted .count pushedAaab))) =
      [some 0x1, some 0x48554646, some 0x0, some 0x0, some 0x0] := by decide

/-- Vector HA-13: the second pop and the read past the end. -/
theorem test_pop :
    exec .rdOutData { packedAaab with outPtr := 1 } = .next { packedAaab with outPtr := 2, rdata := 0xE0 }
      ∧ exec .rdOutData { packedAaab with outPtr := 2 } = .next { packedAaab with outPtr := 2, rdata := 0 } :=
  ⟨rfl, rfl⟩

/-- Vectors SRC-4 and HA-15. -/
theorem test_read_table :
    [0, 1, 2].map (fun n => [Instr.rdTabSym, .rdTabFreq, .rdTabClen].map
      fun i => readValue (exec i { packedAaab with tabIndex := n })) =
      [[some 0x62, some 1, some 1], [some 0x61, some 3, some 1], [some 0, some 0, some 0]] := by decide

/-- The example of 10_state.md R41: code "110" reads 0xC0000000 at w = 0 and 0 at w = 1. -/
theorem test_code_word : codeWord [true, true, false] 0 = 0xC0000000 ∧ codeWord [true, true, false] 1 = 0 := by decide

/-- Vector HA-17. -/
theorem test_read_codew :
    readValue (exec .rdTabCodew { packedAaab with tabIndex := 1 }) = some 0x80000000
      ∧ readValue (exec .rdTabCodew { packedAaab with tabIndex := 1, tabWsel := 1 }) = some 0 := by decide

/-- Vector HA-16. -/
theorem test_read_nodes :
    [0, 1, 2, 3].map (fun n => [Instr.rdNodeInfo, .rdNodeFreq, .rdNodeLeft, .rdNodeRight].map
      fun i => readValue (exec i { packedAaab with nodeIndex := n })) =
      [[some 0x0, some 1, some 0, some 0], [some 0x2, some 3, some 0, some 0], [some 0x5, some 4, some 0, some 1],
        [some 0, some 0, some 0, some 0]] := by decide

/-- Vector EX-1's STATUS: COUNTED, DONE, IRQ; and HA-10's: COUNTED, DONE, BUSYERR; and PCK-12's error state. -/
theorem test_status_words :
    statusValue { countedAaab with ie := true } = 0x1A ∧ statusValue { countedAaab with busyErr := true } = 0x16
      ∧ statusValue (failedWith .unknownSymbol State.reset) = 0x272 := by decide

/-! ### Writes -/

/-- Vectors HA-3 and HA-4. -/
theorem test_push :
    exec (.wrInData 0x61) State.reset = .next { State.reset with ibuf := [(0, 0x61)], inLen := 1 }
      ∧ exec (.wrInData 0x200000) State.reset = .next (failedWith .symbolRange State.reset) :=
  ⟨rfl, rfl⟩

/-- Vector HA-6: MAX_LEN = 4. -/
theorem test_push_overflow :
    exec (.wrInData 0x65) { pushedAaab with cfg := ⟨21, 4, 256, 65536, 0⟩ } =
      .next (failedWith .inputOverflow { pushedAaab with cfg := ⟨21, 4, 256, 65536, 0⟩ }) := by rfl

/-- Vector HA-11. -/
theorem test_ctrl_write :
    exec (.wrCtrl 0xFFFFFFFF) packedAaab = .next { packedAaab with ie := true, padMode := true } := by rfl

/-- Vector HA-14, and the index registers. -/
theorem test_index_writes :
    exec (.wrOutPtr 0xFFFFFFFF) packedAaab = .next { packedAaab with outPtr := 0xFFFFFFFF }
      ∧ exec (.wrTabIndex 1) packedAaab = .next { packedAaab with tabIndex := 1 }
      ∧ exec (.wrTabWsel 2) packedAaab = .next { packedAaab with tabWsel := 2 }
      ∧ exec (.wrNodeIndex 3) packedAaab = .next { packedAaab with nodeIndex := 3 } :=
  ⟨rfl, rfl, rfl, rfl⟩

/-- Vector HA-10: writes while busy. -/
theorem test_writes_while_busy :
    [Instr.wrCtrl 1, .nop, .wrCmd 0x101, .wrInData 0x63].map (fun i => match exec i (accepted .count pushedAaab) with
      | .next t => t == { accepted .count pushedAaab with busyErr := true } | .fault _ => false | .refused _ => false) =
      [true, true, true, true] := by decide

/-- Vector HA-12: ignored writes. -/
theorem test_ignored_writes :
    exec (.wrStatus 0xFFFFFFFF) packedAaab = .next packedAaab ∧ exec (.wrId 0) packedAaab = .next packedAaab
      ∧ exec (.wrReserved7c 5) packedAaab = .next packedAaab :=
  ⟨rfl, rfl, rfl⟩

/-! ### The bus and reset -/

/-- Vector HA-19. -/
theorem test_undefined_accesses :
    step { packedAaab with inbox := [.bus (.write 0x1E [1, 0, 0, 0])] } = .next packedAaab
      ∧ step { packedAaab with inbox := [.bus (.read 0x4A 4)] } = .next packedAaab
      ∧ step { packedAaab with inbox := [.bus (.write 0x24 [0x61])] } = .next packedAaab :=
  ⟨rfl, rfl, rfl⟩

/-- A push over the bus, BASE = 0x80, little-endian lanes (20_memory.md R63). -/
theorem test_bus_push :
    step { State.reset with cfg := ⟨21, 65536, 256, 65536, 0x80⟩, inbox := [.bus (.write 0xA4 [0x34, 0x12, 0, 0])] } =
      .next { State.reset with cfg := ⟨21, 65536, 256, 65536, 0x80⟩, ibuf := [(0, 0x1234)], inLen := 1 } := by rfl

/-- Vector EX-6: reset while RUN is pending. -/
theorem test_reset_discards :
    step { accepted .run { pushedAaab with ie := true, padMode := true } with inbox := [.hardReset] } =
      .next State.reset := by rfl

/-- Program P5: the push before and after the core step. -/
theorem test_schedules :
    step { accepted .count pushedAaab with inbox := [.host (.bow 0xA400000063#40), .coreTurn] } =
        .next { accepted .count pushedAaab with busyErr := true, inbox := [.coreTurn] }
      ∧ exec (.wrInData 0x63) countedAaab = .next (failedWith .sequence countedAaab) :=
  ⟨rfl, rfl⟩

/-! ### Witnesses: for each statement with hypotheses, concrete values that meet them together, one per clause -/

/-- The largest parameters 00_scope.md R6 allows. -/
def largestConfig : Config := ⟨32, 2 ^ 32 - 1, 2 ^ 31, 2 ^ 28, 0xFFFFFF80⟩

/-- The state with one event to come. -/
def facing (e : Event) (s : State) : State := { s with inbox := [e] }

/-- The state with the parameters `c`. -/
def withConfig (c : Config) (s : State) : State := { s with cfg := c }

/-- The state that has just failed with a Sequence error. -/
def sequenceFailed : State := failedWith .sequence countedAaab

theorem witness_DecodeEncodeRoundTrip :
    (Instr.illegalCw 0xFFFFFFFF).wellFormed = true ∧ (Instr.wrCmd 0x00000101).wellFormed = true
      ∧ Instr.rdStatus.wellFormed = true := by decide

theorem witness_EncodeDecodedWord :
    decode (.bow 0x20FFFFFFFF#40) = .ok .rdStatus ∧ decode (.cw 0x00000007#32) = .ok (.illegalCw 0x00000007) := by decide

theorem witness_BowDecodesIffAligned :
    (bowOffset 0x9F00000000#40).toNat % 4 ≠ 0 ∧ (bowOffset 0x9C00000000#40).toNat % 4 = 0 := by decide

theorem witness_StepRunsDecodedInstruction :
    (facing (.host (.bow 0x4800000000#40)) packedAaab).inbox = [.host (.bow 0x4800000000#40)]
      ∧ decode (.bow 0x4800000000#40) = .ok .rdOutData := by decide

/-- Width 4 at offset 0x4A; width 1 at the last byte of the window; one byte written at offset 0; OFF = 0x1E. -/
theorem witness_UndefinedAccessesHaveNoEffect :
    ((facing (.bus (.read 0x4A 4)) packedAaab).inbox = [.bus (.read 0x4A 4)] ∧ packedAaab.cfg.base ≤ 0x4A
        ∧ 0x4A < packedAaab.cfg.base + 128 ∧ ¬ (4 = 4 ∧ (0x4A - packedAaab.cfg.base) % 4 = 0))
      ∧ ((facing (.bus (.read 127 1)) packedAaab).inbox = [.bus (.read 127 1)] ∧ packedAaab.cfg.base ≤ 127
        ∧ 127 < packedAaab.cfg.base + 128 ∧ ¬ (1 = 4 ∧ (127 - packedAaab.cfg.base) % 4 = 0))
      ∧ ((facing (.bus (.write 0 [0x61])) packedAaab).inbox = [.bus (.write 0 [0x61])] ∧ packedAaab.cfg.base ≤ 0
        ∧ 0 < packedAaab.cfg.base + 128 ∧ ¬ ([0x61#8].length = 4 ∧ (0 - packedAaab.cfg.base) % 4 = 0))
      ∧ ((facing (.host (.bow 0x1E00000000#40)) packedAaab).inbox = [.host (.bow 0x1E00000000#40)]
        ∧ (bowOffset 0x1E00000000#40).toNat % 4 ≠ 0) := by decide

/-- BASE = 0xFFFFFF80: the window's last word, and the addresses just below and just above the window. -/
theorem witness_BusAccessesByAddress :
    (0x7C#7).toNat % 4 = 0
      ∧ (facing (.bus (.read 0xFFFFFFFC 4)) (withConfig largestConfig pushedAaab)).inbox =
          [.bus (.read (largestConfig.base + (0x7C#7).toNat) 4)]
      ∧ (facing (.bus (.write 0xFFFFFFA4 [0x78, 0x56, 0x34, 0x12])) (withConfig largestConfig pushedAaab)).inbox =
          [.bus (.write (largestConfig.base + (0x24#7).toNat)
            [(0x12345678#32).extractLsb' 0 8, (0x12345678#32).extractLsb' 8 8, (0x12345678#32).extractLsb' 16 8,
              (0x12345678#32).extractLsb' 24 8])]
      ∧ 0xFFFFFF7F < largestConfig.base ∧ largestConfig.base + 128 ≤ 0x100000000 := by decide

/-- No event left, and a core turn, each with an operation pending; nothing pending. -/
theorem witness_PendingOperationIsPerformed :
    ((accepted .run pushedAaab).inbox = [] ∧ (accepted .run pushedAaab).busy = true)
      ∧ ((facing .coreTurn (accepted .run pushedAaab)).inbox = [.coreTurn]
        ∧ (facing .coreTurn (accepted .run pushedAaab)).busy = true)
      ∧ pushedAaab.busy = false := by decide

theorem witness_HardwareResetFromEveryState :
    (facing .hardReset (accepted .run pushedAaab)).inbox = [.hardReset] := by decide

theorem witness_IdentificationReads : Config.reference.wf = true ∧ largestConfig.wf = true := by decide

theorem witness_ReadsWhileBusy : (accepted .pack tabledAaab).busy = true := by decide

/-- Also of CtrlWrite and IndexAndPointerWrites. -/
theorem witness_PlainRegisterReads : packedAaab.busy = false ∧ (accepted .pack tabledAaab).busy = true := by decide

theorem witness_WritesToReadOnlyIgnored :
    (0x7C#7).toNat % 4 = 0 ∧ (0x7C#7) ∉ [0x18#7, 0x1C#7, 0x24#7, 0x44#7, 0x4C#7, 0x5C#7, 0x64#7]
      ∧ (0x20#7) ∉ [0x18#7, 0x1C#7, 0x24#7, 0x44#7, 0x4C#7, 0x5C#7, 0x64#7] := by decide

/-- Busy; the last byte; past the end; the error state. -/
theorem witness_PopReturnsByteAndAdvances :
    (accepted .pack tabledAaab).busy = true
      ∧ ({ packedAaab with outPtr := 1 }.busy = false ∧ (1 : Word).toNat < packedAaab.outLen.toNat)
      ∧ ({ packedAaab with outPtr := 2 }.busy = false ∧ packedAaab.outLen.toNat ≤ (2 : Word).toNat)
      ∧ (sequenceFailed.errorConsistent = true ∧ sequenceFailed.phase = .error) := by decide

/-- The last entry and the first index that selects nothing; bit 31. Also of TableReads. -/
theorem witness_CodeWordReadBits :
    packedAaab.busy = false ∧ (1 : Word).toNat < packedAaab.nsym.toNat ∧ packedAaab.codeMaxlen ≠ 0 ∧ 31 < 32
      ∧ ¬ ((2 : Word).toNat < packedAaab.nsym.toNat ∧ packedAaab.codeMaxlen ≠ 0)
      ∧ builtAaab.busy = false ∧ ¬ (builtAaab.tabIndex.toNat < builtAaab.nsym.toNat ∧ builtAaab.codeMaxlen ≠ 0) := by
  decide

/-- Also of NodeReads: a leaf, the root, and the first index that selects nothing. -/
theorem witness_NodeInfoReadBits :
    builtAaab.busy = false
      ∧ ((1 : Word).toNat < builtAaab.nodeCount.toNat ∧ Memory.read builtAaab.node (1 : Word).toNat = .leaf 3)
      ∧ ((2 : Word).toNat < builtAaab.nodeCount.toNat ∧ Memory.read builtAaab.node (2 : Word).toNat = .internal 4 0 1)
      ∧ builtAaab.nodeCount.toNat ≤ (3 : Word).toNat := by decide

theorem witness_WritesWhileBusyOnlyMark : (accepted .run pushedAaab).busy = true ∧ (0x101 : Word) ≠ 0x00000001 := by decide

/-- "aaab" pushed where MAX_LEN = n. -/
def pushedWithin (n : Nat) : State := withConfig ⟨21, n, 256, 65536, 0⟩ pushedAaab

/-- Busy; error state; wrong PHASE; the first value out of range; the last value in range with a full buffer, and with one
free place. -/
theorem witness_PushStoresSymbol :
    (accepted .count pushedAaab).busy = true
      ∧ (sequenceFailed.busy = false ∧ sequenceFailed.phase = .error)
      ∧ (packedAaab.busy = false ∧ packedAaab.phase ≠ .error ∧ packedAaab.phase ≠ .idle)
      ∧ (pushedAaab.busy = false ∧ pushedAaab.phase = .idle ∧ pushedAaab.cfg.symW < 32
        ∧ 2 ^ pushedAaab.cfg.symW ≤ (0x200000 : Word).toNat)
      ∧ ((pushedWithin 4).busy = false ∧ (pushedWithin 4).phase = .idle
        ∧ (0x1FFFFF : Word).toNat < 2 ^ (pushedWithin 4).cfg.symW
        ∧ (pushedWithin 4).inLen.toNat = (pushedWithin 4).cfg.maxLen)
      ∧ ((pushedWithin 5).busy = false ∧ (pushedWithin 5).phase = .idle
        ∧ (0x1FFFFF : Word).toNat < 2 ^ (pushedWithin 5).cfg.symW
        ∧ (pushedWithin 5).inLen.toNat ≠ (pushedWithin 5).cfg.maxLen ∧ Memory.wf (pushedWithin 5).ibuf = true) := by
  decide

/-- Also of OperationsAreAccepted. Busy; the least illegal word, in PHASE ERROR and outside it; each operation's PHASE. -/
theorem witness_CommandAcceptance :
    ((accepted .count pushedAaab).busy = true ∧ (0x101 : Word) ≠ 0x00000001)
      ∧ 0x06 < (0x07 : Word).toNat
      ∧ (sequenceFailed.busy = false ∧ sequenceFailed.phase = .error)
      ∧ (pushedAaab.busy = false ∧ pushedAaab.phase ≠ .error ∧ pushedAaab.phase ≠ .counted ∧ pushedAaab.phase = .idle)
      ∧ (countedAaab.busy = false ∧ countedAaab.phase = .counted)
      ∧ (builtAaab.busy = false ∧ builtAaab.phase = .built)
      ∧ (tabledAaab.busy = false ∧ tabledAaab.phase = .tabled) := by decide

theorem witness_NopChangesNothing : countedAaab.busy = false ∧ (accepted .build countedAaab).busy = true := by decide

/-- RSVD ≠ 0 with the opcode of CLEAR; the first reserved opcode. -/
theorem witness_IllegalCommandEntersError :
    countedAaab.busy = false ∧ countedAaab.phase ≠ .error ∧ (0x00000101 : Word).extractLsb' 8 24 ≠ 0
      ∧ 0x07 ≤ ((0x00000007 : Word).extractLsb' 0 8).toNat := by decide

theorem witness_ErrorStateIgnoresOperations : sequenceFailed.phase = .error ∧ sequenceFailed.busy = false := by decide

theorem witness_OutOfOrderIsSequenceError :
    packedAaab.busy = false ∧ packedAaab.phase ≠ .error ∧ packedAaab.phase ≠ .idle ∧ packedAaab.phase ≠ .counted
      ∧ packedAaab.phase ≠ .built ∧ packedAaab.phase ≠ .tabled := by decide

/-- The events that start a run: a CLEAR as a command word, as a BOW and over the bus, and the reset input. -/
theorem witness_OnlyClearOrResetLeavesError :
    (sequenceFailed.errorConsistent = true ∧ sequenceFailed.phase = .error
        ∧ step (facing (.host (.cw 0x00000001#32)) sequenceFailed) = .next sequenceFailed.clearRun
        ∧ sequenceFailed.clearRun.phase ≠ .error)
      ∧ [Event.host (.cw 0x00000001#32), .host (.bow 0x9C00000001#40), .bus (.write 0x1C [1, 0, 0, 0]), .hardReset].all
          (Event.startsRun sequenceFailed.cfg) = true :=
  ⟨⟨by decide, rfl, rfl, by decide⟩, by decide⟩

theorem witness_BusyErrStaysUntilNewRun :
    step (facing .hardReset { countedAaab with busyErr := true }) = .next State.reset ∧ State.reset.busyErr = false :=
  ⟨rfl, rfl⟩

/-- Masked; an operation accepted; a CLEAR. -/
theorem witness_IrqFallsOnlyAsStated :
    { countedAaab with ie := true }.irq = true
      ∧ (step (facing (.host (.bow 0x9800000000#40)) { countedAaab with ie := true }) = .next countedAaab
        ∧ countedAaab.irq = false)
      ∧ (step (facing (.host (.cw 0x00000003#32)) { countedAaab with ie := true }) =
          .next (accepted .build { countedAaab with ie := true })
        ∧ (accepted .build { countedAaab with ie := true }).irq = false)
      ∧ (step (facing (.host (.cw 0x00000001#32)) { countedAaab with ie := true }) =
          .next { State.reset with ie := true, ibuf := countedAaab.ibuf, ftab := countedAaab.ftab }
        ∧ { State.reset with ie := true, ibuf := countedAaab.ibuf, ftab := countedAaab.ftab }.irq = false) :=
  ⟨rfl, ⟨rfl, rfl⟩, ⟨rfl, rfl⟩, rfl, rfl⟩

theorem witness_ParametersAreHardwired : step (accepted .count pushedAaab) = .next countedAaab := by
  rw [← test_count_result]; rfl

/-- An operation that succeeds and one that fails. -/
theorem witness_CoreStepCompletesOrFails :
    (accepted .run pushedAaab).pending = some .run ∧ (accepted .run State.reset).pending = some .run := by decide

/-- "aaab" pushed where MAX_SYMS = n. -/
def pushedDistinct (n : Nat) : State := withConfig ⟨21, 65536, n, 65536, 0⟩ pushedAaab

/-- Exactly MAX_SYMS distinct symbols. -/
theorem witness_CountMakesOrderedTable :
    (pushedDistinct 2).busy = false ∧ (pushedDistinct 2).phase = .idle ∧ Memory.wf (pushedDistinct 2).ftab = true
      ∧ (pushedDistinct 2).input.toFinset.card ≤ (pushedDistinct 2).cfg.maxSyms := by decide

theorem witness_SortedMergeSelectsFirstTwo :
    [0, 1, 2].Pairwise fun x y => nodeKey [.leaf 1, .leaf 1, .leaf 2] x ≤ nodeKey [.leaf 1, .leaf 1, .leaf 2] y := by
  decide

/-- Two symbols, and the least number, one. -/
theorem witness_BuildMakesStrictBinaryTree :
    (countedAaab.busy = false ∧ countedAaab.phase = .counted ∧ Memory.wf countedAaab.node = true
        ∧ 1 ≤ countedAaab.nsym.toNat ∧ countedAaab.nsym.toNat ≤ 2 ^ 31)
      ∧ (1 ≤ { countedAaab with nsym := 1 }.nsym.toNat ∧ { countedAaab with nsym := 1 }.phase = .counted) := by decide

/-- Two distinct symbols where MAX_SYMS = 1; an empty table. -/
theorem witness_CountAndBuildFailures :
    ((accepted .count (pushedDistinct 1)).pending = some .count
        ∧ (pushedDistinct 1).cfg.maxSyms < (accepted .count (pushedDistinct 1)).input.toFinset.card)
      ∧ ((accepted .build { State.reset with phase := .counted }).pending = some .build
        ∧ (accepted .build { State.reset with phase := .counted }).nsym = 0) := by decide

/-- Scenario 2 of the source, "zzzz", after BUILD: one leaf. -/
def builtZzzz : State :=
  { State.reset with
    phase := .built, done := true, inLen := 4, nsym := 1, nodeCount := 1, rootFreq := 4
    ibuf := [(0, 0x7A), (1, 0x7A), (2, 0x7A), (3, 0x7A)], ftab := [(0, ⟨0x7A, 4⟩)], node := [(0, .leaf 4)] }

theorem inv_builtZzzz : builtZzzz.Inv := by unfold State.Inv; decide

theorem inv_builtAaab : builtAaab.Inv := by unfold State.Inv; decide

theorem inv_packedAaab : packedAaab.Inv := by unfold State.Inv; decide

theorem inv_packPending : (accepted .pack tabledAaab).Inv := by unfold State.Inv; decide

/-- A tree of one leaf, and of two. -/
theorem witness_GentabRecordsRootPaths :
    (builtZzzz.Inv ∧ builtZzzz.busy = false ∧ builtZzzz.phase = .built ∧ builtZzzz.nsym.toNat = 1)
      ∧ (builtAaab.Inv ∧ builtAaab.busy = false ∧ builtAaab.phase = .built ∧ 2 ≤ builtAaab.nsym.toNat) :=
  ⟨⟨inv_builtZzzz, by decide⟩, inv_builtAaab, by decide⟩

/-- Also of CodeLengthsAndRootFrequency. -/
theorem witness_CodesArePrefixFree : packedAaab.Inv ∧ packedAaab.codeMaxlen ≠ 0 ∧ 2 ≤ packedAaab.nsym.toNat :=
  ⟨inv_packedAaab, by decide⟩

/-- "aaab": the first three symbols are entry 1, the last is entry 0. -/
def indexAaab (k : Nat) : Nat := if k = 3 then 0 else 1

/-- MAX_OUT = 2, which just holds the payload 04 E0. -/
def tightAaab : State := withConfig ⟨21, 65536, 256, 2, 0⟩ tabledAaab

theorem witness_PackWritesPayload :
    tightAaab.busy = false ∧ tightAaab.phase = .tabled ∧ Memory.wf tightAaab.obuf = true
      ∧ tightAaab.cfg.maxOut ≤ 2 ^ 28
      ∧ (∀ k < tightAaab.inLen.toNat, indexAaab k < tightAaab.nsym.toNat
        ∧ (Memory.read tightAaab.ftab (indexAaab k)).sym = Memory.read tightAaab.ibuf k)
      ∧ (∀ i < tightAaab.nsym.toNat, ∀ j < tightAaab.nsym.toNat,
        (Memory.read tightAaab.ftab i).sym = (Memory.read tightAaab.ftab j).sym → i = j)
      ∧ [true, true, true, false] =
          (List.range tightAaab.inLen.toNat).flatMap (fun k => Memory.read tightAaab.ctab (indexAaab k))
      ∧ 4 = (if tightAaab.padMode then (8 - 4 % 8) % 8 else 8 - 4 % 8)
      ∧ 8 + [true, true, true, false].length + 4 ≤ 8 * tightAaab.cfg.maxOut := by
  decide

theorem witness_PaddingCounts : 8 % 8 = 0 ∧ 9 % 8 ≠ 0 := by decide

/-- PACK pending with a table that lacks 'b', as vector PCK-12's state does. -/
def packUnknown : State := accepted .pack { tabledAaab with ftab := [(0, ⟨0x63, 1⟩), (1, ⟨0x61, 3⟩)] }

/-- PACK pending for "abababab" where MAX_OUT = 2: the payload takes three bytes (vector PCK-3). -/
def packTooLong : State :=
  accepted .pack { tightAaab with
    inLen := 8, ftab := [(0, ⟨0x61, 4⟩), (1, ⟨0x62, 4⟩)]
    ibuf := [(0, 0x61), (1, 0x62), (2, 0x61), (3, 0x62), (4, 0x61), (5, 0x62), (6, 0x61), (7, 0x62)] }

theorem witness_PackFailures :
    (packUnknown.pending = some .pack
        ∧ ∃ k < packUnknown.inLen.toNat, ∀ i < packUnknown.nsym.toNat,
          (Memory.read packUnknown.ftab i).sym ≠ Memory.read packUnknown.ibuf k)
      ∧ (packTooLong.pending = some .pack
        ∧ encodeInput packTooLong.table packTooLong.codes packTooLong.input =
          .ok [false, true, false, true, false, true, false, true]
        ∧ 8 * packTooLong.cfg.maxOut < 8 + 8 + padCount packTooLong.padMode 8) := by decide

theorem witness_UnknownSymbolUnreachable :
    (accepted .pack tabledAaab).Inv ∧ (accepted .pack tabledAaab).pending = some .pack := ⟨inv_packPending, rfl⟩

theorem witness_RunEqualsItsStages : pushedAaab.busy = false ∧ pushedAaab.phase = .idle := by decide

/-- The same input, with IE = 1 and a stale byte in OBUF. -/
def pushedStale : State := { pushedAaab with obuf := [(0, 0xFF)], ie := true }

/-- The empty input, whose RUN fails with EmptyAlphabet (test_run_empty), with IE = 1 and a stale byte in OBUF. -/
def emptyStale : State := { State.reset with obuf := [(0, 0xFF)], ie := true }

theorem test_run_empty_stale : (accepted .run emptyStale).coreStep = failedWith .emptyAlphabet emptyStale := by decide

/-- A run that succeeds and one that fails. -/
theorem witness_SameInputSamePayload :
    (pushedAaab.busy = false ∧ pushedStale.busy = false ∧ pushedAaab.phase = .idle ∧ pushedStale.phase = .idle
      ∧ pushedAaab.memoriesCanonical = true ∧ pushedStale.memoriesCanonical = true ∧ pushedAaab.cfg = pushedStale.cfg
      ∧ pushedAaab.padMode = pushedStale.padMode ∧ pushedAaab.input = pushedStale.input)
    ∧ State.reset.busy = false ∧ emptyStale.busy = false ∧ State.reset.phase = .idle ∧ emptyStale.phase = .idle
      ∧ State.reset.memoriesCanonical = true ∧ emptyStale.memoriesCanonical = true ∧ State.reset.cfg = emptyStale.cfg
      ∧ State.reset.padMode = emptyStale.padMode ∧ State.reset.input = emptyStale.input := by decide

theorem witness_PayloadLengthLaws : packedAaab.Inv ∧ packedAaab.phase = .packed := ⟨inv_packedAaab, rfl⟩

/-- Also of StepKeepsInvariant, ErrorAndPendingStatesKept and CapacitiesKept: a PACK pending, and the state it ends in. -/
theorem witness_MemoriesStayCanonical :
    (accepted .pack tabledAaab).Inv ∧ step (accepted .pack tabledAaab) = .next packedAaab :=
  ⟨inv_packPending, by rw [← test_pack_result]; rfl⟩

/-- A failure; an operation's success; a new run. -/
theorem witness_PhaseMovesForward :
    (State.reset.pendingConsistent = true
        ∧ step (facing (.host (.cw 0x00000003#32)) State.reset) = .next (failedWith .sequence State.reset))
      ∧ ((accepted .pack tabledAaab).pendingConsistent = true
        ∧ step (accepted .pack tabledAaab) = .next packedAaab ∧ packedAaab.phase ≠ tabledAaab.phase)
      ∧ (step (facing .hardReset packedAaab) = .next State.reset ∧ State.reset.phase ≠ packedAaab.phase) :=
  ⟨⟨rfl, rfl⟩, ⟨rfl, witness_MemoriesStayCanonical.2, by decide⟩, rfl, by decide⟩

/-- The state after PACK, and one with a stale byte beyond OUT_LEN and a stale FTAB entry beyond NSYM. -/
def packedStale : State := { packedAaab with obuf := packedAaab.obuf ++ [(2, 0x55)], ftab := packedAaab.ftab ++ [(2, ⟨0x63, 7⟩)] }

theorem witness_UnspecifiedContentsUnobservable :
    packedAaab.Inv ∧ packedStale.Inv ∧ packedAaab.sameVisible packedStale ∧ step packedAaab = .next packedAaab := by
  refine ⟨inv_packedAaab, ?_, ?_, rfl⟩
  · unfold State.Inv; decide
  · unfold State.sameVisible; decide

end Sys2Proof.Tests
end

section
/-! The parameters, the capacities and the step of 00_scope.md: what a step with an event does, what a predicate needs
to be kept by every step, and the three statements of this family. -/

namespace Sys2Proof

/-- The constraint column of 00_scope.md R6 by its rows. -/
theorem Config.wf_iff (c : Config) : c.wf = true ↔
    (1 ≤ c.symW ∧ c.symW ≤ 32) ∧ (1 ≤ c.maxLen ∧ c.maxLen ≤ 2 ^ 32 - 1)
      ∧ (1 ≤ c.maxSyms ∧ c.maxSyms ≤ 2 ^ c.symW ∧ c.maxSyms ≤ 2 ^ 31)
      ∧ (2 ≤ c.maxOut ∧ c.maxOut ≤ 2 ^ 28) ∧ c.base % 128 = 0 := by
  simp [Config.wf, and_assoc]

end Sys2Proof

namespace Sys2Proof.Machine

/-! ### A step with an event to take -/

theorem step_of_inbox_cons {s : State} {e : Event} {rest : List Event} (h : s.inbox = e :: rest) :
    step s = State.handle e { s with inbox := rest } := by
  simp only [step, State.takeTurn, h]

theorem hostAccess_of_decode {e : Encoded} {i : Instr} (h : decode e = .ok i) (s : State) :
    s.hostAccess e = exec i s := by
  simp only [State.hostAccess, h]

/-! ### The successes of the four stages -/

theorem eq_of_performCount_ok {s t : State} (h : performCount s = .ok t) :
    s.input.dedup.length ≤ s.cfg.maxSyms ∧ t = { s with
      ftab := Memory.fill s.ftab 0 (frequencyTable s.input)
      nsym := BitVec.ofNat 32 s.input.dedup.length } := by
  rcases performCount_cases s with ⟨-, hc⟩ | ⟨hle, hc⟩ <;> rw [hc] at h <;> cases h
  exact ⟨hle, rfl⟩

theorem eq_of_performBuild_ok {s t : State} (h : performBuild s = .ok t) :
    s.nsym ≠ 0 ∧ ∃ nodes, nodes = buildNodes (s.table.map FreqEntry.freq) ∧ t = { s with
      node := Memory.fill s.node 0 nodes
      nodeCount := BitVec.ofNat 32 nodes.length
      rootFreq := (nodes.getD (nodes.length - 1) default).freq } := by
  rcases performBuild_cases s with ⟨-, hc⟩ | ⟨hne, nodes, hn, hc⟩ <;> rw [hc] at h <;> cases h
  exact ⟨hne, nodes, hn, rfl⟩

theorem eq_of_performGentab_ok {s t : State} (h : performGentab s = .ok t) : t = { s with
    ctab := Memory.fill s.ctab 0 (codeTable s.nodes s.nsym.toNat)
    codeMaxlen := BitVec.ofNat 32 (maxCodeLength (codeTable s.nodes s.nsym.toNat)) } := by
  rw [performGentab_eq] at h
  cases h
  rfl

theorem eq_of_performPack_ok {s t : State} (h : performPack s = .ok t) :
    ∃ bits extra, encodeInput s.table s.codes s.input = .ok bits ∧ extra = padCount s.padMode bits.length
      ∧ (8 + bits.length + extra) / 8 ≤ s.cfg.maxOut ∧ t = { s with
        obuf := Memory.fill s.obuf 0 (streamBytes (packStream bits extra))
        outLen := BitVec.ofNat 32 ((8 + bits.length + extra) / 8)
        outPtr := 0
        bodyBits := BitVec.ofNat 32 bits.length
        pad := BitVec.ofNat 4 extra } := by
  rcases performPack_cases s with ⟨e, -, hc⟩ | ⟨bits, extra, hb, he, ⟨-, hc⟩ | ⟨-, hc⟩ | ⟨hle, hc⟩⟩ <;>
    rw [hc] at h <;> cases h
  exact ⟨bits, extra, hb, he, hle, rfl⟩

/-! ### Predicates that every step keeps -/

/-- What a predicate needs to be kept by every core step (41_commands.md R103, R106, R107): the success of each stage,
the PHASE RUN writes after one, completion and error entry all keep it. -/
structure CoreKeeps (P : State → Prop) : Prop where
  count : ∀ {s t}, P s → performCount s = .ok t → P t
  build : ∀ {s t}, P s → performBuild s = .ok t → P t
  gentab : ∀ {s t}, P s → performGentab s = .ok t → P t
  pack : ∀ {s t}, P s → performPack s = .ok t → P t
  phase : ∀ {s} (phase : Phase), P s → P { s with phase := phase }
  completed : ∀ {s} (op : Operation), P s → P ({ s with pending := none }.complete op)
  failed : ∀ {s} (e : Err), P s → P ({ s with pending := none }.enterError e)

theorem performStage_keeps {P : State → Prop} {perform : State → Except Err State}
    (hperform : ∀ {s t}, P s → perform s = .ok t → P t) {s : State} (h : P s) : P (performStage perform s).1 := by
  unfold performStage
  split
  · exact h
  · exact hperform h ‹_›

theorem performStages_keeps {P : State → Prop} (hphase : ∀ {s} (phase : Phase), P s → P { s with phase := phase })
    {stages : List ((State → Except Err State) × Phase)}
    (hstages : ∀ stage ∈ stages, ∀ {s t}, P s → stage.1 s = .ok t → P t) {s : State} (h : P s) :
    P (performStages stages s).1 := by
  induction stages generalizing s with
  | nil => exact h
  | cons stage stages ih =>
    obtain ⟨perform, phase⟩ := stage
    rcases performStages_cons perform phase stages s with ⟨e, -, hr⟩ | ⟨s', hok, hr⟩ <;> rw [hr]
    · exact h
    · exact ih (fun st hst => hstages st (List.mem_cons_of_mem _ hst))
        (hphase phase (hstages _ List.mem_cons_self h hok))

theorem CoreKeeps.performOperation {P : State → Prop} (hP : CoreKeeps P) (op : Operation) {s : State} (h : P s) :
    P (performOperation op s).1 := by
  cases op with
  | count => exact performStage_keeps hP.count h
  | build => exact performStage_keeps hP.build h
  | gentab => exact performStage_keeps hP.gentab h
  | pack => exact performStage_keeps hP.pack h
  | run =>
    refine performStages_keeps hP.phase (fun stage hstage => ?_) h
    simp only [runStages, List.mem_cons, List.not_mem_nil, or_false] at hstage
    rcases hstage with rfl | rfl | rfl | rfl
    · exact hP.count
    · exact hP.build
    · exact hP.gentab
    · exact hP.pack

theorem CoreKeeps.coreStep {P : State → Prop} (hP : CoreKeeps P) {s : State} (h : P s) : P s.coreStep := by
  cases hp : s.pending with
  | none => rwa [coreStep_of_none hp]
  | some op =>
    have hperf := hP.performOperation op h
    rcases coreStep_of_some hp with ⟨r, hr, hs⟩ | ⟨r, e, hr, hs⟩ <;> rw [hr] at hperf <;> rw [hs]
    · exact hP.completed op hperf
    · exact hP.failed e hperf

/-- A predicate that the core, taking an event, the reset input and every host effect keep is kept by every step. -/
theorem step_keeps {P : State → Prop} (hcore : CoreKeeps P)
    (hinbox : ∀ {s} (rest : List Event), P s → P { s with inbox := rest })
    (hreset : ∀ {s}, P s → P s.hardwareReset)
    (hhost : ∀ {i s t}, HostEffect i s t → P s → P t) {s t : State} (h : P s) (hst : step s = .next t) : P t := by
  cases stepEffect_of_step hst with
  | alone => exact hcore.coreStep h
  | core rest => exact hcore.coreStep (hinbox rest h)
  | reset rest => exact hreset (hinbox rest h)
  | host e rest i _ _ effect => exact hhost effect (hinbox rest h)
  | skipped e rest v => exact hhost (i := .nop) (.answered v) (hinbox rest h)

/-! ### The parameters -/

theorem HostEffect.cfg_eq {i : Instr} {s t : State} (h : HostEffect i s t) : t.cfg = s.cfg := by
  cases h <;> rfl

theorem coreKeeps_cfg (c : Config) : CoreKeeps fun s => s.cfg = c where
  count h ht := by obtain ⟨-, rfl⟩ := eq_of_performCount_ok ht; exact h
  build h ht := by obtain ⟨-, _, -, rfl⟩ := eq_of_performBuild_ok ht; exact h
  gentab h ht := by obtain rfl := eq_of_performGentab_ok ht; exact h
  pack h ht := by obtain ⟨_, _, -, -, -, rfl⟩ := eq_of_performPack_ok ht; exact h
  phase _ h := h
  completed _ h := h
  failed _ h := h

theorem step_cfg {s t : State} (h : step s = .next t) : t.cfg = s.cfg :=
  step_keeps (P := fun u => u.cfg = s.cfg) (coreKeeps_cfg s.cfg) (fun _ h => h) (fun h => h)
    (fun he h => he.cfg_eq.trans h) rfl h

/-! ### The capacities -/

/-- The range check of a push is exactly "below 2^SYM_W" (00_scope.md R7, 40_host_access.md R94). -/
theorem symbolOutOfRange_eq_false_iff (symW : Nat) (v : Word) :
    symbolOutOfRange symW v = false ↔ v.toNat < 2 ^ symW := by
  by_cases hw : symW < 32
  · simp [symbolOutOfRange, hw, ← BitVec.toNat_inj, Nat.shiftRight_eq_div_pow, Nat.div_eq_zero_iff]
  · have hlt : v.toNat < 2 ^ symW := v.isLt.trans_le (Nat.pow_le_pow_right (by decide) (Nat.le_of_not_lt hw))
    simp [symbolOutOfRange, hw, hlt]

theorem padCount_le (padMode : Bool) (body : Nat) : padCount padMode body ≤ 8 := by
  unfold padCount
  split <;> omega

/-- `State.withinCapacity` and `State.symbolsInRange` by their parts, with the canonical form of IBUF that a push needs
to keep the input (`bounded_iff`). -/
structure State.Bounded (s : State) : Prop where
  ibuf : Memory.wf s.ibuf = true
  cfg : s.cfg.wf = true
  inLen : s.inLen.toNat ≤ s.cfg.maxLen
  nsym : s.nsym.toNat ≤ s.cfg.maxSyms
  nodeCount : s.nodeCount.toNat ≤ 2 * s.cfg.maxSyms - 1
  outLen : s.outLen.toNat ≤ s.cfg.maxOut
  pad : s.pad.toNat ≤ 8
  symbols : ∀ x ∈ s.input, x.toNat < 2 ^ s.cfg.symW

theorem bounded_iff (s : State) :
    s.Bounded ↔ Memory.wf s.ibuf = true ∧ s.withinCapacity = true ∧ s.symbolsInRange = true := by
  simp only [State.withinCapacity, State.symbolsInRange, Bool.and_eq_true, decide_eq_true_eq, List.all_eq_true]
  constructor
  · rintro ⟨hi, hc, hl, hn, hk, ho, hp, hs⟩
    exact ⟨hi, ⟨⟨⟨⟨⟨hc, hl⟩, hn⟩, hk⟩, ho⟩, hp⟩, hs⟩
  · rintro ⟨hi, ⟨⟨⟨⟨⟨hc, hl⟩, hn⟩, hk⟩, ho⟩, hp⟩, hs⟩
    exact ⟨hi, hc, hl, hn, hk, ho, hp, hs⟩

theorem State.Bounded.enterError {s : State} (h : s.Bounded) (e : Err) : (s.enterError e).Bounded :=
  { h with outLen := Nat.zero_le _ }

theorem State.Bounded.clearRun {s : State} (h : s.Bounded) : s.clearRun.Bounded where
  ibuf := h.ibuf
  cfg := h.cfg
  inLen := Nat.zero_le _
  nsym := Nat.zero_le _
  nodeCount := Nat.zero_le _
  outLen := Nat.zero_le _
  pad := Nat.zero_le _
  symbols _ hx := nomatch hx

theorem State.Bounded.hardwareReset {s : State} (h : s.Bounded) : s.hardwareReset.Bounded :=
  { h.clearRun with ibuf := rfl, symbols := fun _ hx => nomatch hx }

/-- A push with room for it does not wrap IN_LEN, and its symbol stands at the end of the input (40_host_access.md
R94). -/
theorem State.Bounded.push {s : State} (h : s.Bounded) {v : Word} (range : symbolOutOfRange s.cfg.symW v = false)
    (room : s.inLen.toNat ≠ s.cfg.maxLen) :
    State.Bounded { s with ibuf := Memory.write s.ibuf s.inLen.toNat v, inLen := s.inLen + 1 } := by
  obtain ⟨-, ⟨-, hmax⟩, -⟩ := (Config.wf_iff s.cfg).1 h.cfg
  have hle := h.inLen
  have hlen : (s.inLen + 1).toNat = s.inLen.toNat + 1 := by
    rw [BitVec.toNat_add]
    exact Nat.mod_eq_of_lt (by simp; omega)
  refine { h with ibuf := Memory.wf_write _ v h.ibuf, inLen := ?_, symbols := ?_ }
  · rw [hlen]; simp; omega
  · simp only [State.input, hlen, Memory.firstEntries_write_succ h.ibuf, List.mem_append, List.mem_singleton]
    rintro x (hx | rfl)
    · exact h.symbols x hx
    · exact (symbolOutOfRange_eq_false_iff _ _).1 range

/-- BUILD makes at most 2·MAX_SYMS − 1 nodes of a table within its capacity (43_tree_builder.md R116). -/
theorem length_buildNodes_table_le {s : State} (hne : s.nsym ≠ 0) (h : s.nsym.toNat ≤ s.cfg.maxSyms) :
    (buildNodes (s.table.map FreqEntry.freq)).length ≤ 2 * s.cfg.maxSyms - 1 := by
  have hlen : (s.table.map FreqEntry.freq).length = s.nsym.toNat := by simp [State.table]
  have hpos : s.nsym.toNat ≠ 0 := fun h0 => hne (BitVec.eq_of_toNat_eq h0)
  rw [length_buildNodes _ (List.ne_nil_of_length_pos (by omega)), hlen]
  omega

theorem toNat_ofNat_le (w : Nat) {n m : Nat} (h : n ≤ m) : (BitVec.ofNat w n).toNat ≤ m := by
  rw [BitVec.toNat_ofNat]
  exact (Nat.mod_le n _).trans h

theorem coreKeeps_bounded : CoreKeeps State.Bounded where
  count h ht := by
    obtain ⟨hle, rfl⟩ := eq_of_performCount_ok ht
    exact { h with nsym := toNat_ofNat_le 32 hle }
  build h ht := by
    obtain ⟨hne, nodes, rfl, rfl⟩ := eq_of_performBuild_ok ht
    exact { h with nodeCount := toNat_ofNat_le 32 (length_buildNodes_table_le hne h.nsym) }
  gentab h ht := by
    obtain rfl := eq_of_performGentab_ok ht
    exact { h with }
  pack h ht := by
    obtain ⟨bits, extra, -, rfl, hle, rfl⟩ := eq_of_performPack_ok ht
    exact { h with outLen := toNat_ofNat_le 32 hle, pad := toNat_ofNat_le 4 (padCount_le _ _) }
  phase _ h := { h with }
  completed _ h := { h with }
  failed e h := { h.enterError e with }

theorem HostEffect.bounded {i : Instr} {s t : State} (he : HostEffect i s t) (h : s.Bounded) : t.Bounded := by
  cases he with
  | cleared => exact h.clearRun
  | failed e => exact h.enterError e
  | pushed v _ _ range room => exact h.push range room
  | same | answered | popped | marked | accepted | ctrl | indexed => exact { h with }

theorem step_bounded {s t : State} (h : s.Bounded) (hst : step s = .next t) : t.Bounded :=
  step_keeps coreKeeps_bounded (fun _ h => { h with }) (fun h => h.hardwareReset) (fun he h => he.bounded h) h hst

end Sys2Proof.Machine

namespace Sys2Proof.Proofs

open Sys2Proof Sys2Proof.Machine

/-- Settles O6: the step handles the first event, and a host access whose word decodes runs the instruction. -/
theorem stepRunsDecodedInstruction : Obligations.StepRunsDecodedInstruction := by
  intro s e rest i hinbox hdecode
  calc step s = State.hostAccess e { s with inbox := rest } := step_of_inbox_cons hinbox
    _ = exec i { s with inbox := rest } := hostAccess_of_decode hdecode _

/-- Settles O36: no stage of the core and no host effect writes the parameters, and the reset input keeps them. -/
theorem parametersAreHardwired : Obligations.ParametersAreHardwired := fun _ _ h => step_cfg h

/-- Settles O55 by the invariant `State.Bounded`, which every step keeps. -/
theorem capacitiesKept : Obligations.CapacitiesKept := by
  intro s t hmem hcap hsym hst
  simp only [State.memoriesCanonical, Bool.and_eq_true, and_assoc] at hmem
  obtain ⟨hibuf, -⟩ := hmem
  exact ((bounded_iff t).1 (step_bounded ((bounded_iff s).2 ⟨hibuf, hcap, hsym⟩) hst)).2

end Sys2Proof.Proofs
end

section
/-! The core's operations as lists of stages, each from the PHASE it needs to the PHASE it leaves (41_commands.md R102,
R106), and what a core step keeps of the error state and the pending state. -/

namespace Sys2Proof.Machine

/-! ### Stages -/

/-- A stage of the core, with the PHASE it starts in and the PHASE its success leaves (41_commands.md R102). -/
inductive Stage : Phase → (State → Except Err State) → Phase → Prop
  | count : Stage .idle performCount .counted
  | build : Stage .counted performBuild .built
  | gentab : Stage .built performGentab .tabled
  | pack : Stage .tabled performPack .packed

/-- Stages in a row, each starting in the PHASE the one before it leaves. -/
inductive StagePath : Phase → List ((State → Except Err State) × Phase) → Phase → Prop
  | nil (p : Phase) : StagePath p [] p
  | cons {p q r : Phase} {perform : State → Except Err State} {stages : List ((State → Except Err State) × Phase)}
      (stage : Stage p perform q) (path : StagePath q stages r) : StagePath p ((perform, q) :: stages) r

/-- The stages of an operation: all four for RUN (41_commands.md R106), else its own. -/
def Operation.stages : Operation → List ((State → Except Err State) × Phase)
  | .count => [(performCount, .counted)]
  | .build => [(performBuild, .built)]
  | .gentab => [(performGentab, .tabled)]
  | .pack => [(performPack, .packed)]
  | .run => runStages

/-- The stages of an operation lead from the PHASE it needs to the PHASE it leaves. -/
theorem Operation.path : (op : Operation) → StagePath op.need op.stages op.next
  | .count => .cons .count (.nil _)
  | .build => .cons .build (.nil _)
  | .gentab => .cons .gentab (.nil _)
  | .pack => .cons .pack (.nil _)
  | .run => .cons .count (.cons .build (.cons .gentab (.cons .pack (.nil _))))

theorem finish_performStage (op : Operation) (perform : State → Except Err State) (s : State) :
    State.finish op (performStage perform s) = State.finish op (performStages [(perform, op.next)] s) := by
  cases h : perform s <;> simp [performStage, performStages, h, State.finish, State.complete]

/-- A core step performs the stages of the pending operation; the PHASE a single stage writes is the one completion
writes. -/
theorem coreStep_eq_stages {s : State} {op : Operation} (h : s.pending = some op) :
    s.coreStep = State.finish op (performStages op.stages s) := by
  have hstep : s.coreStep = State.finish op (performOperation op s) := by simp only [State.coreStep, h]
  rw [hstep]
  cases op with
  | count => exact finish_performStage .count performCount s
  | build => exact finish_performStage .build performBuild s
  | gentab => exact finish_performStage .gentab performGentab s
  | pack => exact finish_performStage .pack performPack s
  | run => rfl

/-- The end of a core step (41_commands.md R103), by the error of its operation. -/
theorem finish_cases (op : Operation) (r : State × Option Err) :
    (r.2 = none ∧ State.finish op r = { r.1 with pending := none }.complete op)
    ∨ ∃ e, r.2 = some e ∧ State.finish op r = { r.1 with pending := none }.enterError e := by
  rcases r with ⟨r, _ | e⟩
  · exact .inl ⟨rfl, rfl⟩
  · exact .inr ⟨e, rfl, rfl⟩

/-- No stage writes STATUS.ERR. -/
theorem Stage.err_eq {p q : Phase} {perform : State → Except Err State} (hstage : Stage p perform q) {s t : State}
    (h : perform s = .ok t) : t.err = s.err := by
  cases hstage with
  | count => obtain ⟨-, rfl⟩ := eq_of_performCount_ok h; rfl
  | build => obtain ⟨-, _, -, rfl⟩ := eq_of_performBuild_ok h; rfl
  | gentab => obtain rfl := eq_of_performGentab_ok h; rfl
  | pack => obtain ⟨_, _, -, -, -, rfl⟩ := eq_of_performPack_ok h; rfl

theorem StagePath.err_eq {p r : Phase} {stages : List ((State → Except Err State) × Phase)}
    (hpath : StagePath p stages r) (s : State) : (performStages stages s).1.err = s.err := by
  induction hpath generalizing s with
  | nil => rfl
  | cons stage path ih =>
    rcases performStages_cons _ _ _ s with ⟨e, -, hr⟩ | ⟨s', hok, hr⟩ <;> rw [hr]
    have herr : s'.err = s.err := stage.err_eq hok
    exact (ih _).trans herr

/-! ### The error state and the pending state -/

theorem errorConsistent_iff (s : State) : s.errorConsistent = true ↔
    (s.err.isSome = true ↔ s.phase = .error)
      ∧ (s.phase = .error → s.done = true ∧ s.pending = none ∧ s.outLen = 0) := by
  have hbeq : (s.err.isSome == (s.phase == .error)) = true ↔ (s.err.isSome = true ↔ s.phase = .error) := by
    rw [beq_iff_eq, Bool.eq_iff_iff, beq_iff_eq]
  rw [State.errorConsistent, Bool.and_eq_true, hbeq]
  simp [and_assoc, ← imp_iff_not_or]

theorem pendingConsistent_iff (s : State) : s.pendingConsistent = true ↔
    ∀ op, s.pending = some op → s.phase = op.need ∧ s.done = false := by
  unfold State.pendingConsistent
  cases h : s.pending <;> simp

/-- ERR is 0 outside PHASE ERROR (10_state.md R25). -/
theorem err_eq_none {s : State} (h : s.errorConsistent = true) (hp : s.phase ≠ .error) : s.err = none := by
  obtain ⟨herr, -⟩ := (errorConsistent_iff s).1 h
  exact Option.not_isSome_iff_eq_none.1 fun he => hp (herr.1 he)

theorem Operation.need_ne_error (op : Operation) : op.need ≠ .error := by cases op <;> decide

theorem Operation.next_ne_error (op : Operation) : op.next ≠ .error := by cases op <;> decide

theorem pendingConsistent_of_idle {s : State} (h : s.pending = none) : s.pendingConsistent = true := by
  simp [State.pendingConsistent, h]

theorem errorConsistent_enterError (e : Err) {s : State} (h : s.pending = none) :
    (s.enterError e).errorConsistent = true := by
  simp [errorConsistent_iff, h]

/-- `State.errorConsistent` and `State.pendingConsistent` together: neither is kept without the other. -/
structure State.Settled (s : State) : Prop where
  error : s.errorConsistent = true
  pending : s.pendingConsistent = true

theorem State.Settled.enterError {s : State} (e : Err) (h : s.pending = none) : (s.enterError e).Settled :=
  ⟨errorConsistent_enterError e h, pendingConsistent_of_idle h⟩

theorem State.Settled.accept {s : State} (h : s.Settled) {op : Operation} (hneed : s.phase = op.need) :
    State.Settled { s with done := false, pending := some op } where
  error := by
    have hp : s.phase ≠ .error := hneed ▸ op.need_ne_error
    simp [errorConsistent_iff, err_eq_none h.error hp, hp]
  pending := by simp [pendingConsistent_iff, hneed]

theorem State.Settled.coreStep {s : State} (h : s.Settled) : s.coreStep.Settled := by
  cases hp : s.pending with
  | none => rwa [coreStep_of_none hp]
  | some op =>
    rw [coreStep_eq_stages hp]
    rcases finish_cases op (performStages op.stages s) with ⟨-, hs⟩ | ⟨e, -, hs⟩ <;> rw [hs]
    · obtain ⟨hneed, -⟩ := (pendingConsistent_iff s).1 h.pending op hp
      have herr : (performStages op.stages s).1.err = none :=
        (op.path.err_eq s).trans (err_eq_none h.error (hneed ▸ op.need_ne_error))
      exact ⟨by simp [errorConsistent_iff, herr, op.next_ne_error], pendingConsistent_of_idle rfl⟩
    · exact .enterError e rfl

theorem HostEffect.settled {i : Instr} {s t : State} (he : HostEffect i s t) (h : s.Settled) : t.Settled := by
  cases he with
  | cleared => exact ⟨rfl, rfl⟩
  | failed e idle => exact .enterError e ((busy_eq_false_iff s).1 idle)
  | accepted op _ need => exact h.accept need
  | same | answered | popped | marked | pushed | ctrl | indexed => exact ⟨h.error, h.pending⟩

theorem step_settled {s t : State} (h : s.Settled) (hst : step s = .next t) : t.Settled := by
  cases stepEffect_of_step hst with
  | alone => exact h.coreStep
  | core rest => exact State.Settled.coreStep ⟨h.error, h.pending⟩
  | reset => exact ⟨rfl, rfl⟩
  | host e rest i _ _ effect => exact effect.settled ⟨h.error, h.pending⟩
  | skipped => exact ⟨h.error, h.pending⟩

/-! ### The PHASE -/

/-- A host access changes PHASE only by an error or by a new run. -/
theorem HostEffect.phase_cases {i : Instr} {s t : State} (he : HostEffect i s t) :
    t.phase = s.phase ∨ (t.phase = .error ∧ t.err.isSome = true)
      ∨ (t.phase = .idle ∧ (i = .clear ∨ i = .wrCmd 0x00000001)) := by
  cases he with
  | failed => exact .inr (.inl ⟨rfl, rfl⟩)
  | cleared by_clear => exact .inr (.inr ⟨rfl, by_clear⟩)
  | same | answered | popped | marked | accepted | pushed | ctrl | indexed => exact .inl rfl

/-- A core step changes PHASE only by an error or from the PHASE the pending operation needs to the one it leaves. -/
theorem coreStep_phase_cases {s : State} (h : s.pendingConsistent = true) :
    s.coreStep = s ∨ (s.coreStep.phase = .error ∧ s.coreStep.err.isSome = true)
      ∨ ∃ op, s.pending = some op ∧ s.phase = op.need ∧ s.coreStep.phase = op.next := by
  cases hp : s.pending with
  | none => exact .inl (coreStep_of_none hp)
  | some op =>
    obtain ⟨hneed, -⟩ := (pendingConsistent_iff s).1 h op hp
    rcases coreStep_of_some hp with ⟨r, -, hs⟩ | ⟨r, e, -, hs⟩ <;> rw [hs]
    · exact .inr (.inr ⟨op, rfl, hneed, rfl⟩)
    · exact .inr (.inl ⟨rfl, rfl⟩)

end Sys2Proof.Machine

namespace Sys2Proof.Proofs

open Sys2Proof Sys2Proof.Machine

/-- Settles O54 by `State.Settled`: an operation's stages leave ERR alone, which is 0 in the PHASE the operation
needs. -/
theorem errorAndPendingStatesKept : Obligations.ErrorAndPendingStatesKept := by
  intro s t herr hpend hst
  have ht := step_settled ⟨herr, hpend⟩ hst
  exact ⟨ht.error, ht.pending⟩

/-- Settles O56 by the three ways PHASE changes: error entry, the success of the pending operation, a new run. -/
theorem phaseMovesForward : Obligations.PhaseMovesForward := by
  intro s t hpend hst hne
  cases stepEffect_of_step hst with
  | alone =>
    rcases coreStep_phase_cases hpend with hs | hs | hs
    · exact absurd (congrArg State.phase hs) hne
    · exact .inl hs
    · exact .inr (.inl hs)
  | core rest =>
    rcases coreStep_phase_cases (s := { s with inbox := rest }) hpend with hs | hs | hs
    · exact absurd (congrArg State.phase hs) hne
    · exact .inl hs
    · exact .inr (.inl hs)
  | reset rest next => exact .inr (.inr ⟨rfl, _, rest, next, rfl⟩)
  | host e rest i _ next effect only_clear =>
    rcases effect.phase_cases with hs | hs | ⟨hs, hclear⟩
    · exact absurd hs hne
    · exact .inl hs
    · exact .inr (.inr ⟨hs, e, rest, next, only_clear hclear⟩)
  | skipped => exact absurd rfl hne

end Sys2Proof.Proofs
end

section
/-! The invariant `State.Inv`, part by part: the canonical form of the memories, the codes GENTAB finds in a tree BUILD
made, and the results each PHASE vouches for. -/

namespace Sys2Proof.Machine

/-! ### The canonical form of the memories -/

/-- `State.memoriesCanonical` by its parts (`memoriesCanonical_iff`). -/
structure State.Canonical (s : State) : Prop where
  ibuf : Memory.wf s.ibuf = true
  ftab : Memory.wf s.ftab = true
  node : Memory.wf s.node = true
  ctab : Memory.wf s.ctab = true
  obuf : Memory.wf s.obuf = true

theorem memoriesCanonical_iff (s : State) : s.memoriesCanonical = true ↔ s.Canonical := by
  simp only [State.memoriesCanonical, Bool.and_eq_true]
  constructor
  · rintro ⟨⟨⟨⟨hi, hf⟩, hn⟩, hc⟩, ho⟩
    exact ⟨hi, hf, hn, hc, ho⟩
  · rintro ⟨hi, hf, hn, hc, ho⟩
    exact ⟨⟨⟨⟨hi, hf⟩, hn⟩, hc⟩, ho⟩

theorem coreKeeps_canonical : CoreKeeps State.Canonical where
  count h ht := by
    obtain ⟨-, rfl⟩ := eq_of_performCount_ok ht
    exact { h with ftab := Memory.wf_fill 0 _ h.ftab }
  build h ht := by
    obtain ⟨-, nodes, -, rfl⟩ := eq_of_performBuild_ok ht
    exact { h with node := Memory.wf_fill 0 _ h.node }
  gentab h ht := by
    obtain rfl := eq_of_performGentab_ok ht
    exact { h with ctab := Memory.wf_fill 0 _ h.ctab }
  pack h ht := by
    obtain ⟨bits, extra, -, -, -, rfl⟩ := eq_of_performPack_ok ht
    exact { h with obuf := Memory.wf_fill 0 _ h.obuf }
  phase _ h := { h with }
  completed _ h := { h with }
  failed _ h := { h with }

theorem HostEffect.canonical {i : Instr} {s t : State} (he : HostEffect i s t) (h : s.Canonical) : t.Canonical := by
  cases he with
  | pushed v => exact { h with ibuf := Memory.wf_write _ v h.ibuf }
  | same | answered | popped | marked | cleared | failed | accepted | ctrl | indexed => exact { h with }

theorem step_canonical {s t : State} (h : s.Canonical) (hst : step s = .next t) : t.Canonical :=
  step_keeps coreKeeps_canonical (fun _ h => { h with }) (fun _ => ⟨rfl, rfl, rfl, rfl, rfl⟩)
    (fun he h => he.canonical h) h hst

/-- The entries just filled, read back through a count register that holds their number without wrap. -/
theorem Memory.firstEntries_fill_ofNat {α : Type} [Inhabited α] [DecidableEq α] {m : Memory α} (h : Memory.wf m = true)
    {vs : List α} {n : Nat} (hn : n = vs.length) (hlt : n < 2 ^ 32) :
    Memory.firstEntries (Memory.fill m 0 vs) (BitVec.ofNat 32 n).toNat = vs := by
  rw [BitVec.toNat_ofNat, Nat.mod_eq_of_lt hlt, hn, Memory.firstEntries_fill h]

/-! ### The codes of a tree (44_encoding_table.md R121) -/

/-- A code is at least as long as the path it starts with, and shorter than that path and the bound of the walk. -/
theorem length_of_mem_visit {nodes : List Node} {k v i : Nat} {p c : Bits} (h : (i, c) ∈ visit nodes k v p) :
    p.length ≤ c.length ∧ c.length < p.length + k := by
  induction k generalizing v p with
  | zero => simp [visit] at h
  | succ k ih =>
    simp only [visit] at h
    split at h
    · obtain ⟨rfl, rfl⟩ : i = v ∧ c = p := by simpa using h
      omega
    · have longer {b : Bool} (hc : (p ++ [b]).length ≤ c.length ∧ c.length < (p ++ [b]).length + k) :
          p.length ≤ c.length ∧ c.length < p.length + (k + 1) := by
        simp only [List.length_append, List.length_singleton] at hc
        omega
      rcases List.mem_append.1 h with h | h
      · exact longer (ih h)
      · exact longer (ih h)

/-- In a tree whose children are older than their parents the walk from a node reaches a leaf. -/
theorem exists_leaf_mem_visit {nodes : List Node}
    (older : ∀ u f l r, nodes.getD u default = .internal f l r → l < u ∧ r < u) {k v : Nat} (hk : v < k) (p : Bits) :
    ∃ i ≤ v, ∃ c f, (i, c) ∈ visit nodes k v p ∧ nodes.getD i default = .leaf f := by
  induction k generalizing v p with
  | zero => omega
  | succ k ih =>
    simp only [visit]
    cases hv : nodes.getD v default with
    | leaf f => exact ⟨v, Nat.le_refl v, p, f, by simp, hv⟩
    | internal f l r =>
      have hl := (older v f l r hv).1
      obtain ⟨i, hi, c, f', hmem, hf⟩ := ih (v := l) (by omega) (p ++ [false])
      exact ⟨i, by omega, c, f', List.mem_append_left _ hmem, hf⟩

/-- Every code is non-empty and no longer than the number of nodes. -/
theorem length_of_mem_leafCodes {nodes : List Node} (hne : nodes ≠ []) {i : Nat} {c : Bits}
    (h : (i, c) ∈ leafCodes nodes) : 1 ≤ c.length ∧ c.length ≤ nodes.length := by
  have hpos := List.length_pos_iff.2 hne
  unfold leafCodes at h
  split at h
  · obtain ⟨-, rfl⟩ : i = nodes.length - 1 ∧ c = [false] := by simpa using h
    exact ⟨Nat.le_refl 1, hpos⟩
  · rename_i f l r hroot
    obtain ⟨n, hn⟩ : ∃ n, nodes.length = n + 1 := ⟨nodes.length - 1, by omega⟩
    have hvisit : visit nodes nodes.length (nodes.length - 1) [] =
        visit nodes n l [false] ++ visit nodes n r [true] := by
      rw [hn] at hroot ⊢
      simp only [visit, hroot, List.nil_append]
    rw [hvisit] at h
    have hc : 1 ≤ c.length ∧ c.length < 1 + n := by
      rcases List.mem_append.1 h with h | h
      · exact length_of_mem_visit h
      · exact length_of_mem_visit h
    omega

/-- Some leaf of the tree has a code. -/
theorem exists_leaf_mem_leafCodes {nodes : List Node} (hne : nodes ≠ [])
    (older : ∀ u f l r, nodes.getD u default = .internal f l r → l < u ∧ r < u) :
    ∃ i < nodes.length, ∃ c f, (i, c) ∈ leafCodes nodes ∧ nodes.getD i default = .leaf f := by
  have hpos := List.length_pos_iff.2 hne
  unfold leafCodes
  split
  · exact ⟨nodes.length - 1, by omega, [false], _, by simp, ‹_›⟩
  · obtain ⟨i, hi, hmem⟩ := exists_leaf_mem_visit older (show nodes.length - 1 < nodes.length by omega) []
    exact ⟨i, by omega, hmem⟩

/-- A recorded code is one of the codes found, or empty where the walk found none. -/
theorem codeOf_cases (assigned : List (Nat × Bits)) (i : Nat) :
    (i, codeOf assigned i) ∈ assigned ∨ ((∀ c, (i, c) ∉ assigned) ∧ codeOf assigned i = []) := by
  unfold codeOf
  cases hl : assigned.lookup i with
  | none =>
    refine .inr ⟨fun c hc => ?_, rfl⟩
    simpa using List.lookup_eq_none_iff.1 hl _ hc
  | some c =>
    obtain ⟨l₁, l₂, rfl, -⟩ := List.lookup_eq_some_iff.1 hl
    exact .inl (by simp)

theorem maxCodeLength_le_iff (codes : List Bits) (m : Nat) :
    maxCodeLength codes ≤ m ↔ ∀ c ∈ codes, c.length ≤ m := by
  have from_start : ∀ a, codes.foldl (fun m c => max m c.length) a ≤ m ↔ a ≤ m ∧ ∀ c ∈ codes, c.length ≤ m := by
    induction codes with
    | nil => simp
    | cons c codes ih => intro a; simp [ih, and_assoc]
  simpa [maxCodeLength] using from_start 0

theorem length_le_maxCodeLength {codes : List Bits} {c : Bits} (h : c ∈ codes) : c.length ≤ maxCodeLength codes :=
  (maxCodeLength_le_iff codes _).1 (Nat.le_refl _) c h

/-- The codes of a table are no longer than the number of nodes (43_tree_builder.md R120). -/
theorem maxCodeLength_codeTable_le {nodes : List Node} (hne : nodes ≠ []) (n : Nat) :
    maxCodeLength (codeTable nodes n) ≤ nodes.length := by
  refine (maxCodeLength_le_iff _ _).2 fun c hc => ?_
  obtain ⟨i, -, rfl⟩ := List.mem_map.1 hc
  rcases codeOf_cases (leafCodes nodes) i with hmem | ⟨-, hnil⟩
  · exact (length_of_mem_leafCodes hne hmem).2
  · simp [hnil]

/-- Where the first `n` nodes hold every leaf, CODE_MAXLEN is not 0. -/
theorem maxCodeLength_codeTable_pos {nodes : List Node} (hne : nodes ≠ []) {n : Nat}
    (older : ∀ u f l r, nodes.getD u default = .internal f l r → l < u ∧ r < u)
    (leaves : ∀ i < nodes.length, ∀ f, nodes.getD i default = .leaf f → i < n) :
    1 ≤ maxCodeLength (codeTable nodes n) := by
  obtain ⟨i, hi, c, f, hmem, hf⟩ := exists_leaf_mem_leafCodes hne older
  have hcode : codeOf (leafCodes nodes) i ∈ codeTable nodes n :=
    List.mem_map.2 ⟨i, List.mem_range.2 (leaves i hi f hf), rfl⟩
  have hpos : 1 ≤ (codeOf (leafCodes nodes) i).length := by
    rcases codeOf_cases (leafCodes nodes) i with hfound | ⟨hnone, -⟩
    · exact (length_of_mem_leafCodes hne hfound).1
    · exact absurd hmem (hnone c)
  exact hpos.trans (length_le_maxCodeLength hcode)

/-- Every node BUILD makes after the leaves is internal, over two nodes made before it (43_tree_builder.md R114). -/
theorem buildNodes_made {freqs : List Word} {v : Nat} (hv : freqs.length ≤ v) (hlt : v < (buildNodes freqs).length) :
    ∃ f l r, (buildNodes freqs).getD v default = .internal f l r ∧ l < v ∧ r < v := by
  obtain ⟨l, r, hmade, ⟨hl, -⟩, ⟨hr, -⟩, -⟩ := buildNodes_merges freqs v hv hlt
  exact ⟨_, l, r, hmade, hl, hr⟩

theorem buildNodes_leaf {freqs : List Word} (hne : freqs ≠ []) {i : Nat} (hi : i < freqs.length) :
    (buildNodes freqs).getD i default = .leaf freqs[i] := by
  obtain ⟨made, hm, -⟩ := buildNodes_spec freqs hne
  rw [hm, getD_append_left _ _ _ (by simpa using hi)]
  simp [hi]

theorem buildNodes_older {freqs : List Word} (hne : freqs ≠ []) (u : Nat) (f : Word) (l r : Nat)
    (h : (buildNodes freqs).getD u default = .internal f l r) : l < u ∧ r < u := by
  by_cases hu : u < (buildNodes freqs).length
  · by_cases hleaf : u < freqs.length
    · rw [buildNodes_leaf hne hleaf] at h; cases h
    · obtain ⟨f', l', r', hmade, hl, hr⟩ := buildNodes_made (Nat.le_of_not_lt hleaf) hu
      rw [hmade] at h; cases h
      exact ⟨hl, hr⟩
  · rw [List.getD_eq_default _ _ (Nat.le_of_not_lt hu)] at h; cases h

/-- In a tree BUILD made, the longest code has at least one bit and at most as many as there are nodes. -/
theorem maxCodeLength_buildNodes {freqs : List Word} (hne : freqs ≠ []) :
    1 ≤ maxCodeLength (codeTable (buildNodes freqs) freqs.length)
      ∧ maxCodeLength (codeTable (buildNodes freqs) freqs.length) ≤ (buildNodes freqs).length := by
  have hnodes : buildNodes freqs ≠ [] := by
    obtain ⟨made, hm, -⟩ := buildNodes_spec freqs hne
    simp [hm, hne]
  refine ⟨maxCodeLength_codeTable_pos hnodes (buildNodes_older hne) fun i hi f hf => ?_,
    maxCodeLength_codeTable_le hnodes _⟩
  by_contra hge
  obtain ⟨f', l, r, hmade, -⟩ := buildNodes_made (Nat.le_of_not_lt hge) hi
  rw [hmade] at hf; cases hf

end Sys2Proof.Machine
end

section
/-! `State.resultsConsistent` PHASE by PHASE, and that every stage of the core and every host access keeps it. -/

namespace Sys2Proof.Machine

/-! ### The results of each PHASE (10_state.md R24) -/

section
variable {s : State}

theorem results_idle_iff (h : s.phase = .idle) : s.resultsConsistent = true ↔
    s.nsym = 0 ∧ s.nodeCount = 0 ∧ s.rootFreq = 0 ∧ s.codeMaxlen = 0 ∧ s.packUndone = true := by
  simp only [State.resultsConsistent, State.packUndone, h, Bool.and_eq_true, Bool.or_eq_true, beq_iff_eq, bne_iff_ne]
  tauto

theorem results_counted_iff (h : s.phase = .counted) : s.resultsConsistent = true ↔
    s.countDone = true ∧ s.nodeCount = 0 ∧ s.rootFreq = 0 ∧ s.codeMaxlen = 0 ∧ s.packUndone = true := by
  simp only [State.resultsConsistent, State.packUndone, h, Bool.and_eq_true, Bool.or_eq_true, beq_iff_eq, bne_iff_ne]
  tauto

theorem results_built_iff (h : s.phase = .built) : s.resultsConsistent = true ↔
    s.nodeCount ≠ 0 ∧ s.countDone = true ∧ s.buildDone = true ∧ s.codeMaxlen = 0 ∧ s.packUndone = true := by
  simp only [State.resultsConsistent, State.packUndone, h, Bool.and_eq_true, Bool.or_eq_true, beq_iff_eq, bne_iff_ne]
  tauto

theorem results_tabled_iff (h : s.phase = .tabled) : s.resultsConsistent = true ↔
    s.nodeCount ≠ 0 ∧ s.countDone = true ∧ s.buildDone = true ∧ s.codeMaxlen ≠ 0 ∧ s.gentabDone = true
      ∧ s.packUndone = true := by
  simp only [State.resultsConsistent, State.packUndone, h, Bool.and_eq_true, Bool.or_eq_true, beq_iff_eq, bne_iff_ne]
  tauto

theorem results_packed_iff (h : s.phase = .packed) : s.resultsConsistent = true ↔
    s.nodeCount ≠ 0 ∧ s.countDone = true ∧ s.buildDone = true ∧ s.codeMaxlen ≠ 0 ∧ s.gentabDone = true
      ∧ s.outLen ≠ 0 ∧ s.packDone = true := by
  simp only [State.resultsConsistent, h, Bool.and_eq_true, Bool.or_eq_true, beq_iff_eq, bne_iff_ne]
  tauto

/-- In PHASE ERROR the count registers vouch for their results, and OUT_LEN = 0 vouches for none (60_exceptions.md R145,
R146). -/
theorem results_enterError (h : s.resultsConsistent = true) (e : Err) : (s.enterError e).resultsConsistent = true := by
  simp only [State.resultsConsistent, Bool.and_eq_true] at h
  obtain ⟨⟨⟨⟨-, hcount⟩, hbuild⟩, hgentab⟩, -⟩ := h
  exact Bool.and_eq_true_iff.2 ⟨Bool.and_eq_true_iff.2 ⟨Bool.and_eq_true_iff.2 ⟨hcount, hbuild⟩, hgentab⟩, rfl⟩

end

/-! ### The parts of the invariant that need no error state -/

/-- The parts of `State.Inv` that speak of memories, capacities and results. -/
structure State.Sound (s : State) : Prop where
  canonical : s.Canonical
  bounded : s.Bounded
  results : s.resultsConsistent = true

theorem inv_iff (s : State) : s.Inv ↔ s.Sound ∧ s.Settled := by
  unfold State.Inv
  constructor
  · rintro ⟨hmem, herr, hpend, hcap, hsym, hres⟩
    have hcan := (memoriesCanonical_iff s).1 hmem
    exact ⟨⟨hcan, (bounded_iff s).2 ⟨hcan.ibuf, hcap, hsym⟩, hres⟩, herr, hpend⟩
  · rintro ⟨⟨hcan, hbound, hres⟩, herr, hpend⟩
    obtain ⟨-, hcap, hsym⟩ := (bounded_iff s).1 hbound
    exact ⟨(memoriesCanonical_iff s).2 hcan, herr, hpend, hcap, hsym, hres⟩

theorem State.Bounded.maxSyms_le {s : State} (h : s.Bounded) : s.cfg.maxSyms ≤ 2 ^ 31 := by
  obtain ⟨-, -, ⟨-, -, hle⟩, -⟩ := (Config.wf_iff s.cfg).1 h.cfg
  exact hle

theorem State.Bounded.maxOut_le {s : State} (h : s.Bounded) : s.cfg.maxOut ≤ 2 ^ 28 := by
  obtain ⟨-, -, -, ⟨-, hle⟩, -⟩ := (Config.wf_iff s.cfg).1 h.cfg
  exact hle

@[simp] theorem length_frequencyTable (input : List Sym) : (frequencyTable input).length = input.dedup.length := by
  simp [frequencyTable, countPairs]

@[simp] theorem length_codeTable (nodes : List Node) (n : Nat) : (codeTable nodes n).length = n := by
  simp [codeTable]

@[simp] theorem length_table (s : State) : s.table.length = s.nsym.toNat := by simp [State.table]

@[simp] theorem length_nodes (s : State) : s.nodes.length = s.nodeCount.toNat := by simp [State.nodes]

theorem buildDone_iff (s : State) : s.buildDone = true ↔
    s.nsym ≠ 0 ∧ s.nodes = buildNodes (s.table.map FreqEntry.freq)
      ∧ s.rootFreq = (Memory.read s.node (s.nodeCount.toNat - 1)).freq := by
  simp only [State.buildDone, Bool.and_eq_true, bne_iff_ne, beq_iff_eq, and_assoc, ne_eq]

theorem toNat_ne_zero {w : Word} (h : w ≠ 0) : w.toNat ≠ 0 := fun h0 => h (BitVec.eq_of_toNat_eq h0)

theorem ofNat_ne_zero {n : Nat} (hpos : 1 ≤ n) (hlt : n < 2 ^ 32) : BitVec.ofNat 32 n ≠ 0 := by
  intro h
  have := congrArg BitVec.toNat h
  rw [BitVec.toNat_ofNat, Nat.mod_eq_of_lt hlt] at this
  simp at this
  omega

/-! ### Each stage makes the results of the PHASE it leaves -/

section
variable {s t : State}

theorem results_of_performCount (h : s.Sound) (hphase : s.phase = .idle) (ht : performCount s = .ok t) :
    State.resultsConsistent { t with phase := .counted } = true := by
  obtain ⟨hle, rfl⟩ := eq_of_performCount_ok ht
  obtain ⟨-, hnodes, hroot, hcodes, hpack⟩ := (results_idle_iff hphase).1 h.results
  have hmax := h.bounded.maxSyms_le
  refine (results_counted_iff rfl).2 ⟨beq_iff_eq.2 ?_, hnodes, hroot, hcodes, hpack⟩
  exact Memory.firstEntries_fill_ofNat h.canonical.ftab (by simp) (by omega)

theorem results_of_performBuild (h : s.Sound) (hphase : s.phase = .counted) (ht : performBuild s = .ok t) :
    State.resultsConsistent { t with phase := .built } = true := by
  obtain ⟨hne, nodes, hn, rfl⟩ := eq_of_performBuild_ok ht
  obtain ⟨hcount, -, -, hcodes, hpack⟩ := (results_counted_iff hphase).1 h.results
  have hmax := h.bounded.maxSyms_le
  have hpos : s.nsym.toNat ≠ 0 := toNat_ne_zero hne
  have hlen : nodes.length = 2 * s.nsym.toNat - 1 := by
    rw [hn, length_buildNodes _ (List.ne_nil_of_length_pos (by simp; omega))]
    simp
  have hlt : nodes.length < 2 ^ 32 := by have := h.bounded.nsym; omega
  have hread : Memory.firstEntries (Memory.fill s.node 0 nodes) (BitVec.ofNat 32 nodes.length).toNat = nodes :=
    Memory.firstEntries_fill_ofNat h.canonical.node rfl hlt
  have hroot : nodes.getD (nodes.length - 1) default = Memory.read (Memory.fill s.node 0 nodes) (nodes.length - 1) := by
    rw [Memory.read_fill h.canonical.node, if_pos (by omega)]
    simp [Memory.unlisted]
  refine (results_built_iff rfl).2 ⟨ofNat_ne_zero (by omega) hlt, hcount, ?_, hcodes, hpack⟩
  refine (buildDone_iff _).2 ⟨hne, hread.trans hn, ?_⟩
  rw [hroot, BitVec.toNat_ofNat, Nat.mod_eq_of_lt hlt]

theorem results_of_performGentab (h : s.Sound) (hphase : s.phase = .built) (ht : performGentab s = .ok t) :
    State.resultsConsistent { t with phase := .tabled } = true := by
  obtain rfl := eq_of_performGentab_ok ht
  obtain ⟨hcount0, hcount, hbuild, -, hpack⟩ := (results_built_iff hphase).1 h.results
  have hmax := h.bounded.maxSyms_le
  obtain ⟨hne, hnodes, -⟩ := (buildDone_iff s).1 hbuild
  have hpos : s.nsym.toNat ≠ 0 := toNat_ne_zero hne
  have hcodes := maxCodeLength_buildNodes (freqs := s.table.map FreqEntry.freq)
    (List.ne_nil_of_length_pos (by simp; omega))
  rw [← hnodes, List.length_map, length_table, length_nodes] at hcodes
  have hread : Memory.firstEntries (Memory.fill s.ctab 0 (codeTable s.nodes s.nsym.toNat)) s.nsym.toNat =
      codeTable s.nodes s.nsym.toNat := by
    simpa using Memory.firstEntries_fill h.canonical.ctab (codeTable s.nodes s.nsym.toNat)
  have hlt : maxCodeLength (codeTable s.nodes s.nsym.toNat) < 2 ^ 32 := by
    have := h.bounded.nodeCount; omega
  refine (results_tabled_iff rfl).2 ⟨hcount0, hcount, hbuild, ofNat_ne_zero hcodes.1 hlt, ?_, hpack⟩
  simp only [State.gentabDone, Bool.and_eq_true, beq_iff_eq]
  exact ⟨hread, by rw [State.codes, hread]⟩

theorem packDone_of {bits : Bits} (mode : Bool) (hbits : encodeInput s.table s.codes s.input = .ok bits)
    (hpayload : s.payload = streamBytes (packStream bits (padCount mode bits.length)))
    (hbody : s.bodyBits = BitVec.ofNat 32 bits.length)
    (hpad : s.pad = BitVec.ofNat 4 (padCount mode bits.length)) : s.packDone = true := by
  simp only [State.packDone, hbits, List.any_eq_true]
  exact ⟨mode, by cases mode <;> simp, by simp [hpayload, hbody, hpad]⟩

theorem results_of_performPack (h : s.Sound) (hphase : s.phase = .tabled) (ht : performPack s = .ok t) :
    State.resultsConsistent { t with phase := .packed } = true := by
  obtain ⟨bits, extra, hbits, hextra, hle, rfl⟩ := eq_of_performPack_ok ht
  obtain ⟨hcount0, hcount, hbuild, hcodes0, hgentab, -⟩ := (results_tabled_iff hphase).1 h.results
  have hmax := h.bounded.maxOut_le
  have hread : Memory.firstEntries (Memory.fill s.obuf 0 (streamBytes (packStream bits extra)))
      (BitVec.ofNat 32 ((8 + bits.length + extra) / 8)).toNat = streamBytes (packStream bits extra) :=
    Memory.firstEntries_fill_ofNat h.canonical.obuf (by simp) (by omega)
  exact (results_packed_iff rfl).2 ⟨hcount0, hcount, hbuild, hcodes0, hgentab, ofNat_ne_zero (by omega) (by omega),
    packDone_of s.padMode hbits (hextra ▸ hread) rfl (hextra ▸ rfl)⟩

end

theorem Stage.keeps {P : State → Prop} (hP : CoreKeeps P) {p q : Phase} {perform : State → Except Err State}
    (hstage : Stage p perform q) {s t : State} (h : P s) (ht : perform s = .ok t) : P { t with phase := q } := by
  cases hstage with
  | count => exact hP.phase _ (hP.count h ht)
  | build => exact hP.phase _ (hP.build h ht)
  | gentab => exact hP.phase _ (hP.gentab h ht)
  | pack => exact hP.phase _ (hP.pack h ht)

theorem Stage.sound {p q : Phase} {perform : State → Except Err State} (hstage : Stage p perform q) {s t : State}
    (h : s.Sound) (hphase : s.phase = p) (ht : perform s = .ok t) : State.Sound { t with phase := q } where
  canonical := hstage.keeps coreKeeps_canonical h.canonical ht
  bounded := hstage.keeps coreKeeps_bounded h.bounded ht
  results := by
    cases hstage with
    | count => exact results_of_performCount h hphase ht
    | build => exact results_of_performBuild h hphase ht
    | gentab => exact results_of_performGentab h hphase ht
    | pack => exact results_of_performPack h hphase ht

/-- Stages in a row leave a sound state, in the last PHASE unless one of them fails. -/
theorem StagePath.sound {p r : Phase} {stages : List ((State → Except Err State) × Phase)}
    (hpath : StagePath p stages r) {s : State} (h : s.Sound) (hphase : s.phase = p) :
    (performStages stages s).1.Sound
      ∧ ((performStages stages s).2 = none → (performStages stages s).1.phase = r) := by
  induction hpath generalizing s with
  | nil => exact ⟨h, fun _ => hphase⟩
  | cons stage path ih =>
    rcases performStages_cons _ _ _ s with ⟨e, -, hr⟩ | ⟨s', hok, hr⟩ <;> rw [hr]
    · exact ⟨h, nofun⟩
    · exact ih (stage.sound h hphase hok) rfl

/-! ### Every step keeps the invariant -/

theorem State.Sound.enterError {s : State} (h : s.Sound) (e : Err) : (s.enterError e).Sound where
  canonical := { h.canonical with }
  bounded := h.bounded.enterError e
  results := results_enterError h.results e

theorem State.Sound.push {s : State} (h : s.Sound) {v : Word} (hphase : s.phase = .idle)
    (range : symbolOutOfRange s.cfg.symW v = false) (room : s.inLen.toNat ≠ s.cfg.maxLen) :
    State.Sound { s with ibuf := Memory.write s.ibuf s.inLen.toNat v, inLen := s.inLen + 1 } where
  canonical := { h.canonical with ibuf := Memory.wf_write _ v h.canonical.ibuf }
  bounded := h.bounded.push range room
  results := (results_idle_iff (by exact hphase)).2 ((results_idle_iff hphase).1 h.results)

/-- Completion in the PHASE the last stage left writes only PENDING and DONE. -/
theorem State.Sound.complete {s : State} (h : s.Sound) {op : Operation} (hphase : s.phase = op.next) :
    State.Sound ({ s with pending := none }.complete op) := by
  have hs : { s with pending := none }.complete op = { s with pending := none, done := true } := by
    simp [State.complete, ← hphase]
  rw [hs]
  exact ⟨{ h.canonical with }, { h.bounded with }, h.results⟩

theorem State.Sound.coreStep {s : State} (h : s.Sound) (hpend : s.pendingConsistent = true) : s.coreStep.Sound := by
  cases hp : s.pending with
  | none => rwa [coreStep_of_none hp]
  | some op =>
    obtain ⟨hneed, -⟩ := (pendingConsistent_iff s).1 hpend op hp
    obtain ⟨hsound, hlast⟩ := op.path.sound h hneed
    rw [coreStep_eq_stages hp]
    rcases finish_cases op (performStages op.stages s) with ⟨hnone, hs⟩ | ⟨e, -, hs⟩ <;> rw [hs]
    · exact hsound.complete (hlast hnone)
    · exact State.Sound.enterError (s := { (performStages op.stages s).1 with pending := none })
        ⟨{ hsound.canonical with }, { hsound.bounded with }, hsound.results⟩ e

theorem HostEffect.sound {i : Instr} {s t : State} (he : HostEffect i s t) (h : s.Sound) : t.Sound := by
  cases he with
  | cleared => exact ⟨{ h.canonical with }, h.bounded.clearRun, rfl⟩
  | failed e => exact h.enterError e
  | pushed v _ phase range room => exact h.push phase range room
  | same | answered | popped | marked | accepted | ctrl | indexed =>
    exact ⟨{ h.canonical with }, { h.bounded with }, h.results⟩

theorem State.Sound.withInbox {s : State} (h : s.Sound) (rest : List Event) :
    State.Sound { s with inbox := rest } :=
  ⟨{ h.canonical with }, { h.bounded with }, h.results⟩

theorem step_sound {s t : State} (h : s.Sound) (hpend : s.pendingConsistent = true) (hst : step s = .next t) :
    t.Sound := by
  cases stepEffect_of_step hst with
  | alone => exact h.coreStep hpend
  | core rest => exact (h.withInbox rest).coreStep hpend
  | reset rest => exact ⟨⟨rfl, rfl, rfl, rfl, rfl⟩, (h.withInbox rest).bounded.hardwareReset, rfl⟩
  | host e rest i _ _ effect => exact effect.sound (h.withInbox rest)
  | skipped e rest v => exact ⟨{ h.canonical with }, { h.bounded with }, h.results⟩

end Sys2Proof.Machine

namespace Sys2Proof.Proofs

open Sys2Proof Sys2Proof.Machine

/-- Settles O58: memories, capacities and results are kept stage by stage, the error and pending states as O54 says. -/
theorem stepKeepsInvariant : Obligations.StepKeepsInvariant := by
  intro s t hinv hst
  obtain ⟨hsound, hsettled⟩ := (inv_iff s).1 hinv
  exact (inv_iff t).2 ⟨step_sound hsound hsettled.pending hst, step_settled hsettled hst⟩

/-- Settles O53: each write to a memory is `Memory.write` or `Memory.fill`, which keep the canonical form. -/
theorem memoriesStayCanonical : Obligations.MemoriesStayCanonical := by
  intro s t h hst
  exact (memoriesCanonical_iff t).2 (step_canonical ((memoriesCanonical_iff s).1 h) hst)

/-- Settles O57: at reset every count is 0, nothing is pending and the memories list nothing. -/
theorem resetMeetsInvariant : Obligations.ResetMeetsInvariant := by
  unfold Obligations.ResetMeetsInvariant State.Inv
  decide

end Sys2Proof.Proofs
end

section
/-! States that look alike to the host (`State.sameVisible`; 10_state.md R58): every host access and every core step
takes them to such states. -/

namespace Sys2Proof.Machine

/-! ### Registers and entries of states that look alike -/

theorem State.sameVisible.refl (s : State) : s.sameVisible s := ⟨rfl, rfl, rfl, rfl, fun _ => rfl, rfl⟩

section
variable {s t : State}

/-- The second state is the first with memories of its own. -/
theorem State.sameVisible.registers (h : s.sameVisible t) :
    t = { s with ibuf := t.ibuf, ftab := t.ftab, node := t.node, ctab := t.ctab, obuf := t.obuf } := h.1

/-- A function of the state sees only the memories exchanged. -/
theorem State.sameVisible.congr {α : Type} (h : s.sameVisible t) (g : State → α) :
    g t = g { s with ibuf := t.ibuf, ftab := t.ftab, node := t.node, ctab := t.ctab, obuf := t.obuf } :=
  congrArg g h.registers

theorem State.sameVisible.input (h : s.sameVisible t) : t.input = s.input := by
  obtain ⟨-, hinput, -⟩ := h; exact hinput

theorem State.sameVisible.table (h : s.sameVisible t) : t.table = s.table := by
  obtain ⟨-, -, htable, -⟩ := h; exact htable

theorem State.sameVisible.nodes (h : s.sameVisible t) : t.nodes = s.nodes := by
  obtain ⟨-, -, -, hnodes, -⟩ := h; exact hnodes

theorem State.sameVisible.codes (h : s.sameVisible t) (hc : s.codeMaxlen ≠ 0) : t.codes = s.codes := by
  obtain ⟨-, -, -, -, hcodes, -⟩ := h; exact hcodes hc

theorem State.sameVisible.payload (h : s.sameVisible t) : t.payload = s.payload := by
  obtain ⟨-, -, -, -, -, hpayload⟩ := h; exact hpayload

theorem State.sameVisible.cfg (h : s.sameVisible t) : t.cfg = s.cfg := h.congr State.cfg
theorem State.sameVisible.padMode (h : s.sameVisible t) : t.padMode = s.padMode := h.congr State.padMode
theorem State.sameVisible.phase (h : s.sameVisible t) : t.phase = s.phase := h.congr State.phase
theorem State.sameVisible.pending (h : s.sameVisible t) : t.pending = s.pending := h.congr State.pending
theorem State.sameVisible.busy (h : s.sameVisible t) : t.busy = s.busy := h.congr State.busy
theorem State.sameVisible.inLen (h : s.sameVisible t) : t.inLen = s.inLen := h.congr State.inLen
theorem State.sameVisible.nsym (h : s.sameVisible t) : t.nsym = s.nsym := h.congr State.nsym
theorem State.sameVisible.nodeCount (h : s.sameVisible t) : t.nodeCount = s.nodeCount :=
  h.congr State.nodeCount
theorem State.sameVisible.codeMaxlen (h : s.sameVisible t) : t.codeMaxlen = s.codeMaxlen :=
  h.congr State.codeMaxlen
theorem State.sameVisible.outLen (h : s.sameVisible t) : t.outLen = s.outLen := h.congr State.outLen
theorem State.sameVisible.outPtr (h : s.sameVisible t) : t.outPtr = s.outPtr := h.congr State.outPtr
theorem State.sameVisible.tabIndex (h : s.sameVisible t) : t.tabIndex = s.tabIndex :=
  h.congr State.tabIndex
theorem State.sameVisible.tabWsel (h : s.sameVisible t) : t.tabWsel = s.tabWsel := h.congr State.tabWsel
theorem State.sameVisible.nodeIndex (h : s.sameVisible t) : t.nodeIndex = s.nodeIndex :=
  h.congr State.nodeIndex
theorem State.sameVisible.rdata (h : s.sameVisible t) : t.rdata = s.rdata := h.congr State.rdata
theorem State.sameVisible.inbox (h : s.sameVisible t) : t.inbox = s.inbox := h.congr State.inbox

/-- Equal lists of entries have equal entries. -/
theorem Memory.read_eq_of_firstEntries_eq {α : Type} [Inhabited α] {m m' : Memory α} {n i : Nat}
    (h : Memory.firstEntries m n = Memory.firstEntries m' n) (hi : i < n) : Memory.read m i = Memory.read m' i := by
  rw [← Memory.getD_firstEntries hi (Memory.unlisted : α), h, Memory.getD_firstEntries hi]

theorem State.sameVisible.read_ftab (h : s.sameVisible t) {i : Nat} (hi : i < s.nsym.toNat) :
    Memory.read t.ftab i = Memory.read s.ftab i := by
  have htable : Memory.firstEntries t.ftab t.nsym.toNat = Memory.firstEntries s.ftab s.nsym.toNat := h.table
  rw [h.nsym] at htable
  exact Memory.read_eq_of_firstEntries_eq htable hi

theorem State.sameVisible.read_node (h : s.sameVisible t) {i : Nat} (hi : i < s.nodeCount.toNat) :
    Memory.read t.node i = Memory.read s.node i := by
  have hnodes : Memory.firstEntries t.node t.nodeCount.toNat = Memory.firstEntries s.node s.nodeCount.toNat := h.nodes
  rw [h.nodeCount] at hnodes
  exact Memory.read_eq_of_firstEntries_eq hnodes hi

theorem State.sameVisible.read_ctab (h : s.sameVisible t) (hc : s.codeMaxlen ≠ 0) {i : Nat} (hi : i < s.nsym.toNat) :
    Memory.read t.ctab i = Memory.read s.ctab i := by
  have hcodes : Memory.firstEntries t.ctab t.nsym.toNat = Memory.firstEntries s.ctab s.nsym.toNat := h.codes hc
  rw [h.nsym] at hcodes
  exact Memory.read_eq_of_firstEntries_eq hcodes hi

theorem State.sameVisible.read_obuf (h : s.sameVisible t) {i : Nat} (hi : i < s.outLen.toNat) :
    Memory.read t.obuf i = Memory.read s.obuf i := by
  have hpayload : Memory.firstEntries t.obuf t.outLen.toNat = Memory.firstEntries s.obuf s.outLen.toNat := h.payload
  rw [h.outLen] at hpayload
  exact Memory.read_eq_of_firstEntries_eq hpayload hi

/-! ### The readout registers show valid entries only (10_state.md R35 to R46) -/

theorem State.sameVisible.outDataValue (h : s.sameVisible t) : outDataValue t = outDataValue s := by
  simp only [Machine.outDataValue, h.outPtr, h.outLen]
  split
  · rw [h.read_obuf ‹_›]
  · rfl

theorem State.sameVisible.tabSymValue (h : s.sameVisible t) : tabSymValue t = tabSymValue s := by
  simp only [Machine.tabSymValue, h.tabIndex, h.nsym]
  split
  · rw [h.read_ftab ‹_›]
  · rfl

theorem State.sameVisible.tabFreqValue (h : s.sameVisible t) : tabFreqValue t = tabFreqValue s := by
  simp only [Machine.tabFreqValue, h.tabIndex, h.nsym]
  split
  · rw [h.read_ftab ‹_›]
  · rfl

theorem State.sameVisible.tabClenValue (h : s.sameVisible t) : tabClenValue t = tabClenValue s := by
  simp only [Machine.tabClenValue, h.tabIndex, h.nsym, h.codeMaxlen]
  split
  · obtain ⟨hi, hc⟩ := ‹_ ∧ _›
    rw [h.read_ctab hc hi]
  · rfl

theorem State.sameVisible.tabCodewValue (h : s.sameVisible t) : tabCodewValue t = tabCodewValue s := by
  simp only [Machine.tabCodewValue, h.tabIndex, h.tabWsel, h.nsym, h.codeMaxlen]
  split
  · obtain ⟨hi, hc⟩ := ‹_ ∧ _›
    rw [h.read_ctab hc hi]
  · rfl

theorem State.sameVisible.nodeInfoValue (h : s.sameVisible t) : nodeInfoValue t = nodeInfoValue s := by
  simp only [Machine.nodeInfoValue, h.nodeIndex, h.nodeCount, h.nodes]
  split
  · rw [h.read_node ‹_›]
  · rfl

theorem State.sameVisible.nodeFreqValue (h : s.sameVisible t) : nodeFreqValue t = nodeFreqValue s := by
  simp only [Machine.nodeFreqValue, h.nodeIndex, h.nodeCount]
  split
  · rw [h.read_node ‹_›]
  · rfl

theorem State.sameVisible.nodeLeftValue (h : s.sameVisible t) : nodeLeftValue t = nodeLeftValue s := by
  simp only [Machine.nodeLeftValue, h.nodeIndex, h.nodeCount]
  split
  · rw [h.read_node ‹_›]
  · rfl

theorem State.sameVisible.nodeRightValue (h : s.sameVisible t) : nodeRightValue t = nodeRightValue s := by
  simp only [Machine.nodeRightValue, h.nodeIndex, h.nodeCount]
  split
  · rw [h.read_node ‹_›]
  · rfl

/-! ### The shared updates of the state -/

theorem State.sameVisible.answer (h : s.sameVisible t) (v : Word) : (s.answer v).sameVisible (t.answer v) :=
  ⟨h.congr (State.answer v), h.2⟩

theorem State.sameVisible.markBusyErr (h : s.sameVisible t) : s.markBusyErr.sameVisible t.markBusyErr :=
  ⟨h.congr State.markBusyErr, h.2⟩

theorem State.sameVisible.withInbox (h : s.sameVisible t) (rest : List Event) :
    State.sameVisible { s with inbox := rest } { t with inbox := rest } :=
  ⟨h.congr (fun u : State => { u with inbox := rest }), h.2⟩

theorem State.sameVisible.withPhase (h : s.sameVisible t) (q : Phase) :
    State.sameVisible { s with phase := q } { t with phase := q } :=
  ⟨h.congr (fun u : State => { u with phase := q }), h.2⟩

theorem State.sameVisible.unpend (h : s.sameVisible t) :
    State.sameVisible { s with pending := none } { t with pending := none } :=
  ⟨h.congr (fun u : State => { u with pending := none }), h.2⟩

theorem State.sameVisible.complete (h : s.sameVisible t) (op : Operation) :
    (s.complete op).sameVisible (t.complete op) :=
  ⟨h.congr (State.complete op), h.2⟩

/-- Error entry makes every payload byte invalid (60_exceptions.md R145). -/
theorem State.sameVisible.enterError (h : s.sameVisible t) (e : Err) :
    (s.enterError e).sameVisible (t.enterError e) :=
  ⟨h.congr (State.enterError e), h.input, h.table, h.nodes, h.codes, rfl⟩

/-- CLEAR makes every entry invalid (41_commands.md R105). -/
theorem State.sameVisible.clearRun (h : s.sameVisible t) : s.clearRun.sameVisible t.clearRun :=
  ⟨h.congr State.clearRun, rfl, rfl, rfl, fun hc => absurd rfl hc, rfl⟩

theorem State.sameVisible.hardwareReset (h : s.sameVisible t) : s.hardwareReset.sameVisible t.hardwareReset := by
  have hreset : t.hardwareReset = s.hardwareReset := h.congr State.hardwareReset
  rw [hreset]
  exact .refl _

/-- IN_LEN does not wrap at a push with room for it (40_host_access.md R94). -/
theorem State.Bounded.toNat_inLen_succ (h : s.Bounded) (room : s.inLen.toNat ≠ s.cfg.maxLen) :
    (s.inLen + 1).toNat = s.inLen.toNat + 1 := by
  obtain ⟨-, ⟨-, hmax⟩, -⟩ := (Config.wf_iff s.cfg).1 h.cfg
  have hle := h.inLen
  rw [BitVec.toNat_add]
  exact Nat.mod_eq_of_lt (by simp; omega)

theorem State.sameVisible.push (h : s.sameVisible t) (hs : s.Sound) (ht : t.Sound) (v : Word)
    (room : s.inLen.toNat ≠ s.cfg.maxLen) :
    State.sameVisible { s with ibuf := Memory.write s.ibuf s.inLen.toNat v, inLen := s.inLen + 1 }
      { t with ibuf := Memory.write t.ibuf t.inLen.toNat v, inLen := t.inLen + 1 } := by
  refine ⟨h.congr fun u => { u with ibuf := Memory.write t.ibuf t.inLen.toNat v, inLen := u.inLen + 1 }, ?_,
    h.table, h.nodes, h.codes, h.payload⟩
  have hinput : Memory.firstEntries t.ibuf t.inLen.toNat = Memory.firstEntries s.ibuf s.inLen.toNat := h.input
  rw [h.inLen] at hinput
  simp only [State.input, h.inLen, hs.bounded.toNat_inLen_succ room, Memory.firstEntries_write_succ hs.canonical.ibuf,
    Memory.firstEntries_write_succ ht.canonical.ibuf, hinput]

/-! ### Host accesses -/

theorem State.sameVisible.readRegister (h : s.sameVisible t) (off : Nat) {v w : Word} (hv : w = v) :
    (s.readRegister off v).sameVisible (t.readRegister off w) := by
  simp only [State.readRegister, h.busy, hv]
  exact h.answer _

theorem State.sameVisible.guardedWrite (h : s.sameVisible t) {f : State → State}
    (hf : s.busy = false → (f s).sameVisible (f t)) : (s.guardedWrite f).sameVisible (t.guardedWrite f) := by
  rcases guardedWrite_cases f s with ⟨hb, hs⟩ | ⟨hb, hs⟩ <;> rw [hs]
  · rw [guardedWrite_of_busy (h.busy.trans hb)]
    exact h.markBusyErr
  · rw [guardedWrite_of_not_busy (h.busy.trans hb)]
    exact hf hb

/-- A relation between two conditionals, branch by branch. -/
theorem rel_ite {α : Type} {R : α → α → Prop} {p q : Prop} [Decidable p] [Decidable q] {a b a' b' : α} (hpq : q ↔ p)
    (hpos : p → R a a') (hneg : ¬p → R b b') : R (if p then a else b) (if q then a' else b') := by
  by_cases hp : p
  · rw [if_pos hp, if_pos (hpq.2 hp)]; exact hpos hp
  · rw [if_neg hp, if_neg (mt hpq.1 hp)]; exact hneg hp

theorem State.sameVisible.requestOperation (h : s.sameVisible t) (op : Operation) :
    (s.requestOperation op).sameVisible (t.requestOperation op) := by
  refine rel_ite (by rw [h.phase]) (fun _ => h) fun _ => ?_
  refine rel_ite (by rw [h.phase]) (fun _ => h.enterError _) fun _ => ?_
  exact ⟨h.congr fun u => { u with done := false, pending := some op }, h.2⟩

theorem State.sameVisible.rejectCommand (h : s.sameVisible t) : s.rejectCommand.sameVisible t.rejectCommand := by
  exact rel_ite (by rw [h.phase]) (fun _ => h) fun _ => h.enterError _

theorem State.sameVisible.pushSymbol (h : s.sameVisible t) (hs : s.Sound) (ht : t.Sound) (v : Word) :
    (s.pushSymbol v).sameVisible (t.pushSymbol v) := by
  refine rel_ite (by rw [h.phase]) (fun _ => h) fun _ => ?_
  refine rel_ite (by rw [h.phase]) (fun _ => h.enterError _) fun _ => ?_
  refine rel_ite (by rw [h.cfg]) (fun _ => h.enterError _) fun _ => ?_
  exact rel_ite (by rw [h.inLen, h.cfg]) (fun _ => h.enterError _) fun room => h.push hs ht v room

theorem State.sameVisible.accept (h : s.sameVisible t) (cw : Word) : (s.accept cw).sameVisible (t.accept cw) := by
  refine rel_ite (by rw [h.busy]) (fun _ => ?_) fun _ => ?_
  · exact rel_ite Iff.rfl (fun _ => h.clearRun) fun _ => h.markBusyErr
  · refine rel_ite Iff.rfl (fun _ => h.rejectCommand) fun _ => ?_
    match (cwOpcode cw).toNat with
    | 0 => exact h
    | 1 => exact h.clearRun
    | 2 => exact h.requestOperation .count
    | 3 => exact h.requestOperation .build
    | 4 => exact h.requestOperation .gentab
    | 5 => exact h.requestOperation .pack
    | _ + 6 => exact h.requestOperation .run

/-- Two outcomes that are next states which look alike. -/
def sameNext (a b : Host.Outcome State Fault Refusal) : Prop :=
  ∃ s t : State, a = .next s ∧ b = .next t ∧ s.sameVisible t

theorem sameNext_next (h : s.sameVisible t) : sameNext (.next s) (.next t) := ⟨s, t, rfl, rfl, h⟩

theorem State.sameVisible.execRdOutData (h : s.sameVisible t) : sameNext (execRdOutData s) (execRdOutData t) := by
  refine rel_ite (by rw [h.busy]) (fun _ => sameNext_next (h.answer 0)) fun _ => ?_
  refine rel_ite (by rw [h.outPtr, h.outLen]) (fun _ => ?_) fun _ => sameNext_next (h.answer 0)
  rw [h.outDataValue]
  exact sameNext_next ⟨h.congr fun u => { u.answer (Machine.outDataValue s) with outPtr := u.outPtr + 1 }, h.2⟩

theorem State.sameVisible.exec (h : s.sameVisible t) (hs : s.Sound) (ht : t.Sound) (i : Instr) :
    sameNext (exec i s) (exec i t) := by
  cases i
  case rdOutData => exact h.execRdOutData
  case rdParam0 => exact sameNext_next (h.readRegister _ (congrArg param0Value h.cfg))
  case rdParam1 => exact sameNext_next (h.readRegister _ (congrArg param1Value h.cfg))
  case rdParam2 => exact sameNext_next (h.readRegister _ (congrArg param2Value h.cfg))
  case rdParam3 => exact sameNext_next (h.readRegister _ (congrArg param3Value h.cfg))
  case rdCtrl => exact sameNext_next (h.readRegister _ (h.congr ctrlValue))
  case rdStatus => exact sameNext_next (h.readRegister _ (h.congr statusValue))
  case rdInLen => exact sameNext_next (h.readRegister _ h.inLen)
  case rdNsym => exact sameNext_next (h.readRegister _ h.nsym)
  case rdNodeCount => exact sameNext_next (h.readRegister _ h.nodeCount)
  case rdRootFreq => exact sameNext_next (h.readRegister _ (h.congr State.rootFreq))
  case rdBodyBits => exact sameNext_next (h.readRegister _ (h.congr State.bodyBits))
  case rdPad => exact sameNext_next (h.readRegister _ (h.congr (fun u : State => u.pad.setWidth 32)))
  case rdOutLen => exact sameNext_next (h.readRegister _ h.outLen)
  case rdOutPtr => exact sameNext_next (h.readRegister _ h.outPtr)
  case rdTabIndex => exact sameNext_next (h.readRegister _ h.tabIndex)
  case rdTabSym => exact sameNext_next (h.readRegister _ h.tabSymValue)
  case rdTabFreq => exact sameNext_next (h.readRegister _ h.tabFreqValue)
  case rdTabClen => exact sameNext_next (h.readRegister _ h.tabClenValue)
  case rdTabWsel => exact sameNext_next (h.readRegister _ h.tabWsel)
  case rdTabCodew => exact sameNext_next (h.readRegister _ h.tabCodewValue)
  case rdNodeIndex => exact sameNext_next (h.readRegister _ h.nodeIndex)
  case rdNodeInfo => exact sameNext_next (h.readRegister _ h.nodeInfoValue)
  case rdNodeFreq => exact sameNext_next (h.readRegister _ h.nodeFreqValue)
  case rdNodeLeft => exact sameNext_next (h.readRegister _ h.nodeLeftValue)
  case rdNodeRight => exact sameNext_next (h.readRegister _ h.nodeRightValue)
  case rdCodeMaxlen => exact sameNext_next (h.readRegister _ h.codeMaxlen)
  case rdId | rdVersion | rdCmd | rdInData | rdReserved7c => exact sameNext_next (h.readRegister _ rfl)
  case nop => exact sameNext_next (h.guardedWrite fun _ => h)
  case clear => exact sameNext_next h.clearRun
  case count | build | gentab | pack | run => exact sameNext_next (h.guardedWrite fun _ => h.requestOperation _)
  case illegalCw => exact sameNext_next (h.guardedWrite fun _ => h.rejectCommand)
  case wrCmd cw => exact sameNext_next (h.accept cw)
  case wrInData v => exact sameNext_next (h.guardedWrite fun _ => h.pushSymbol hs ht v)
  case wrCtrl v => exact sameNext_next (h.guardedWrite fun _ => ⟨h.congr (State.setCtrl v), h.2⟩)
  case wrOutPtr v => exact sameNext_next (h.guardedWrite fun _ =>
    ⟨h.congr (fun u : State => { u with outPtr := v }), h.2⟩)
  case wrTabIndex v => exact sameNext_next (h.guardedWrite fun _ =>
    ⟨h.congr (fun u : State => { u with tabIndex := v }), h.2⟩)
  case wrTabWsel v => exact sameNext_next (h.guardedWrite fun _ =>
    ⟨h.congr (fun u : State => { u with tabWsel := v }), h.2⟩)
  case wrNodeIndex v => exact sameNext_next (h.guardedWrite fun _ =>
    ⟨h.congr (fun u : State => { u with nodeIndex := v }), h.2⟩)
  all_goals exact sameNext_next h

theorem State.sameVisible.undefinedAccess (h : s.sameVisible t) (write : Bool) :
    (s.undefinedAccess write).sameVisible (t.undefinedAccess write) := by
  cases write
  · exact h.answer 0
  · exact h

theorem State.sameVisible.hostAccess (h : s.sameVisible t) (hs : s.Sound) (ht : t.Sound) (e : Encoded) :
    sameNext (s.hostAccess e) (t.hostAccess e) := by
  rcases hd : decode e with ⟨write, off⟩ | i
  · simp only [State.hostAccess, hd]
    exact sameNext_next (h.undefinedAccess write)
  · rw [hostAccess_of_decode hd, hostAccess_of_decode hd]
    exact h.exec hs ht i

theorem State.sameVisible.busAccess (h : s.sameVisible t) (hs : s.Sound) (ht : t.Sound) (a : BusAccess) :
    sameNext (s.busAccess a) (t.busAccess a) := by
  cases a with
  | read addr size =>
    refine rel_ite (by rw [h.cfg]) (fun _ => sameNext_next h) fun _ => ?_
    refine rel_ite Iff.rfl (fun _ => ?_) fun _ => sameNext_next (h.undefinedAccess _)
    rw [h.cfg]
    exact h.hostAccess hs ht _
  | write addr bytes =>
    refine rel_ite (by rw [h.cfg]) (fun _ => sameNext_next h) fun _ => ?_
    refine rel_ite Iff.rfl (fun _ => ?_) fun _ => sameNext_next (h.undefinedAccess _)
    rw [h.cfg]
    exact h.hostAccess hs ht _

/-! ### Core steps -/

/-- Two results of a stage that are the same error, or states which look alike. -/
def sameResult (a b : Except Err State) : Prop :=
  (∃ e, a = .error e ∧ b = .error e) ∨ ∃ s t : State, a = .ok s ∧ b = .ok t ∧ s.sameVisible t

theorem sameResult_error (e : Err) : sameResult (.error e) (.error e) := .inl ⟨e, rfl, rfl⟩

theorem sameResult_ok (h : s.sameVisible t) : sameResult (.ok s) (.ok t) := .inr ⟨s, t, rfl, rfl, h⟩

/-- COUNT writes FTAB from the input alone; no CTAB is valid yet. -/
theorem State.sameVisible.performCount (h : s.sameVisible t) (hs : s.Sound) (ht : t.Sound) (hphase : s.phase = .idle) :
    sameResult (performCount s) (performCount t) := by
  obtain ⟨-, -, -, hcodes, -⟩ := (results_idle_iff hphase).1 hs.results
  have hmax := hs.bounded.maxSyms_le
  refine rel_ite (by rw [h.cfg, h.input]) (fun _ => sameResult_error _) fun hle => ?_
  rw [h.input]
  have hread {m : Memory FreqEntry} (hm : Memory.wf m = true) := Memory.firstEntries_fill_ofNat hm
    (length_frequencyTable s.input).symm (by omega)
  refine sameResult_ok ⟨h.congr fun u => { u with
      ftab := Memory.fill t.ftab 0 (frequencyTable s.input)
      nsym := BitVec.ofNat 32 s.input.dedup.length },
    h.input, ?_, h.nodes, fun hc => absurd hcodes hc, h.payload⟩
  exact (hread ht.canonical.ftab).trans (hread hs.canonical.ftab).symm

/-- BUILD writes NODE from FTAB alone; no CTAB is valid yet. -/
theorem State.sameVisible.performBuild (h : s.sameVisible t) (hs : s.Sound) (ht : t.Sound)
    (hphase : s.phase = .counted) : sameResult (performBuild s) (performBuild t) := by
  obtain ⟨-, -, -, hcodes, -⟩ := (results_counted_iff hphase).1 hs.results
  have hmax := hs.bounded.maxSyms_le
  refine rel_ite (by rw [h.nsym]) (fun _ => sameResult_error _) fun hne => ?_
  have hlen := length_buildNodes_table_le hne hs.bounded.nsym
  rw [h.table]
  generalize buildNodes (s.table.map FreqEntry.freq) = nodes at hlen ⊢
  have hread {m : Memory Node} (hm : Memory.wf m = true) :=
    Memory.firstEntries_fill_ofNat hm (vs := nodes) rfl (by omega)
  refine sameResult_ok ⟨h.congr fun u => { u with
      node := Memory.fill t.node 0 nodes
      nodeCount := BitVec.ofNat 32 nodes.length
      rootFreq := (nodes.getD (nodes.length - 1) default).freq },
    h.input, h.table, ?_, fun hc => absurd hcodes hc, h.payload⟩
  exact (hread ht.canonical.node).trans (hread hs.canonical.node).symm

/-- GENTAB writes CTAB from NODE alone. -/
theorem State.sameVisible.performGentab (h : s.sameVisible t) (hs : s.Sound) (ht : t.Sound) :
    sameResult (performGentab s) (performGentab t) := by
  have hcodes : codeTable t.nodes t.nsym.toNat = codeTable s.nodes s.nsym.toNat := by rw [h.nodes, h.nsym]
  rw [performGentab_eq, performGentab_eq, hcodes]
  have hread {m : Memory Bits} (hm : Memory.wf m = true) :
      Memory.firstEntries (Memory.fill m 0 (codeTable s.nodes s.nsym.toNat)) s.nsym.toNat =
        codeTable s.nodes s.nsym.toNat := by
    simpa using Memory.firstEntries_fill hm (codeTable s.nodes s.nsym.toNat)
  refine sameResult_ok ⟨h.congr fun u => { u with
      ctab := Memory.fill t.ctab 0 (codeTable s.nodes s.nsym.toNat)
      codeMaxlen := BitVec.ofNat 32 (maxCodeLength (codeTable s.nodes s.nsym.toNat)) },
    h.input, h.table, h.nodes, fun _ => ?_, h.payload⟩
  simp only [State.codes, h.nsym]
  exact (hread ht.canonical.ctab).trans (hread hs.canonical.ctab).symm

/-- PACK writes OBUF from the input, FTAB and a valid CTAB. -/
theorem State.sameVisible.performPack (h : s.sameVisible t) (hs : s.Sound) (ht : t.Sound) (hphase : s.phase = .tabled) :
    sameResult (performPack s) (performPack t) := by
  obtain ⟨-, -, -, hcodes, -⟩ := (results_tabled_iff hphase).1 hs.results
  have hmax := hs.bounded.maxOut_le
  have hbits : encodeInput t.table t.codes t.input = encodeInput s.table s.codes s.input := by
    rw [h.table, h.codes hcodes, h.input]
  unfold Machine.performPack
  rw [hbits]
  split
  · exact sameResult_error _
  · rename_i bits _
    have hpad : padCount t.padMode bits.length = padCount s.padMode bits.length := by rw [h.padMode]
    rw [hpad]
    dsimp only
    generalize packStream bits (padCount s.padMode bits.length) = stream
    refine rel_ite Iff.rfl (fun _ => sameResult_error _) fun _ => ?_
    refine rel_ite (by rw [h.cfg]) (fun _ => sameResult_error _) fun hle => ?_
    have hread {m : Memory Byte} (hm : Memory.wf m = true) :=
      Memory.firstEntries_fill_ofNat hm (length_streamBytes stream).symm (by omega)
    refine sameResult_ok ⟨h.congr fun u => { u with
        obuf := Memory.fill t.obuf 0 (streamBytes stream)
        outLen := BitVec.ofNat 32 (stream.length / 8)
        outPtr := 0
        bodyBits := BitVec.ofNat 32 bits.length
        pad := BitVec.ofNat 4 (padCount s.padMode bits.length) },
      h.input, h.table, h.nodes, h.codes, ?_⟩
    exact (hread ht.canonical.obuf).trans (hread hs.canonical.obuf).symm

theorem Stage.sameResult {p q : Phase} {perform : State → Except Err State} (hstage : Stage p perform q)
    (h : s.sameVisible t) (hs : s.Sound) (ht : t.Sound) (hphase : s.phase = p) :
    sameResult (perform s) (perform t) := by
  cases hstage with
  | count => exact h.performCount hs ht hphase
  | build => exact h.performBuild hs ht hphase
  | gentab => exact h.performGentab hs ht
  | pack => exact h.performPack hs ht hphase

end

/-- Stages in a row take states that look alike to such states, with the same error if any. -/
theorem StagePath.sameVisible {p r : Phase} {stages : List ((State → Except Err State) × Phase)}
    (hpath : StagePath p stages r) {s t : State} (h : s.sameVisible t) (hs : s.Sound) (ht : t.Sound)
    (hphase : s.phase = p) :
    (performStages stages s).1.sameVisible (performStages stages t).1
      ∧ (performStages stages t).2 = (performStages stages s).2 := by
  induction hpath generalizing s t with
  | nil => exact ⟨h, rfl⟩
  | cons stage path ih =>
    rcases stage.sameResult h hs ht hphase with ⟨e, hse, hte⟩ | ⟨s', t', hso, hto, h'⟩
    · simp only [performStages, hse, hte]
      exact ⟨h, trivial⟩
    · simp only [performStages, hso, hto]
      exact ih (h'.withPhase _) (stage.sound hs hphase hso) (stage.sound ht (h.phase.trans hphase) hto) rfl

section
variable {s t : State}

theorem State.sameVisible.coreStep (h : s.sameVisible t) (hs : s.Sound) (ht : t.Sound)
    (hpend : s.pendingConsistent = true) : s.coreStep.sameVisible t.coreStep := by
  cases hp : s.pending with
  | none => rwa [coreStep_of_none hp, coreStep_of_none (h.pending.trans hp)]
  | some op =>
    obtain ⟨hneed, -⟩ := (pendingConsistent_iff s).1 hpend op hp
    obtain ⟨hsame, herr⟩ := op.path.sameVisible h hs ht hneed
    rw [coreStep_eq_stages hp, coreStep_eq_stages (h.pending.trans hp), State.finish, State.finish, herr]
    split
    · exact hsame.unpend.complete op
    · exact hsame.unpend.enterError _

/-- What an event does to states that look alike. -/
theorem State.sameVisible.handle (h : s.sameVisible t) (hs : s.Sound) (ht : t.Sound)
    (hpend : s.pendingConsistent = true) (e : Event) : sameNext (State.handle e s) (State.handle e t) := by
  cases e with
  | host w => exact h.hostAccess hs ht w
  | bus a => exact h.busAccess hs ht a
  | coreTurn => exact sameNext_next (h.coreStep hs ht hpend)
  | hardReset => exact sameNext_next h.hardwareReset

theorem State.sameVisible.step (h : s.sameVisible t) (hs : s.Sound) (ht : t.Sound)
    (hpend : s.pendingConsistent = true) : sameNext (step s) (step t) := by
  simp only [Machine.step, State.takeTurn, h.inbox]
  split
  · exact sameNext_next (h.coreStep hs ht hpend)
  · rename_i e rest _
    exact (h.withInbox rest).handle (hs.withInbox rest) (ht.withInbox rest) hpend e

end
end Sys2Proof.Machine

namespace Sys2Proof.Proofs

open Sys2Proof Sys2Proof.Machine

/-- Settles O59: host accesses read valid entries only, and each stage of the core computes from valid entries; `rdata`
is among the registers in which the two states agree. -/
theorem unspecifiedContentsUnobservable : Obligations.UnspecifiedContentsUnobservable := by
  intro s t s' hs ht hsame hst
  obtain ⟨hsSound, hsSettled⟩ := (inv_iff s).1 hs
  obtain ⟨htSound, -⟩ := (inv_iff t).1 ht
  obtain ⟨u, t', hu, ht', h⟩ := hsame.step hsSound htSound hsSettled.pending
  obtain rfl : u = s' := by rw [hst] at hu; cases hu; rfl
  exact ⟨t', ht', h, h.rdata⟩

end Sys2Proof.Proofs
end

section
/-! The reads of 10_state.md: the bits of a code word, the fields of NODE_INFO, STATUS, CTRL and PARAM0, and the
statements about reads. -/

namespace Sys2Proof.Machine

/-! ### Bit strings as numbers -/

/-- The last bit of a bit string is the least significant one. -/
theorem natOfBits_append_singleton (bs : Bits) (b : Bool) : natOfBits (bs ++ [b]) = 2 * natOfBits bs + b.toNat := by
  simp [natOfBits]

/-- Bit `k` of the number a bit string writes is its bit `k` from the end (00_scope.md R9). -/
theorem testBit_natOfBits (bs : Bits) (k : Nat) : (natOfBits bs).testBit k = bs.reverse.getD k false := by
  induction bs using List.reverseRecOn generalizing k with
  | nil => simp [natOfBits]
  | append_singleton bs b ih =>
    rw [natOfBits_append_singleton, List.reverse_append]
    cases k with
    | zero => cases b <;> simp [Nat.testBit_zero]
    | succ k =>
      have hhalf : (2 * natOfBits bs + b.toNat) / 2 = natOfBits bs := by
        have := b.toNat_lt
        omega
      rw [Nat.testBit_succ, hhalf, ih]
      simp

@[simp] theorem length_bitsFrom (bs : Bits) (k n : Nat) : (bitsFrom bs k n).length = n := by simp [bitsFrom]

theorem getElem_bitsFrom (bs : Bits) (k n : Nat) {j : Nat} (hj : j < (bitsFrom bs k n).length) :
    (bitsFrom bs k n)[j] = bs.getD (k + j) false := by
  simp [bitsFrom]

/-- Bit (31 − j) of word `w` of a code is code bit 32·w + j (10_state.md R41). -/
theorem getLsbD_codeWord (code : Bits) (w : Nat) {j : Nat} (hj : j < 32) :
    (codeWord code w).getLsbD (31 - j) = code.getD (32 * w + j) false := by
  have hlt : 31 - j < 32 := by omega
  have hrev : (bitsFrom code (32 * w) 32).reverse.getD (31 - j) false = code.getD (32 * w + j) false := by
    rw [List.getD_eq_getElem _ _ (by simpa using hlt), List.getElem_reverse, getElem_bitsFrom]
    congr 1
    simp
    omega
  rw [codeWord, BitVec.getLsbD_ofNat, testBit_natOfBits, hrev]
  simp [hlt]

/-! ### The fields of words made by concatenation -/

theorem nodeInfoWord_fields (root label kind : Bool) {v : BitVec (29 + 1 + 1 + 1)}
    (hv : v = 0#29 ++ BitVec.ofBool root ++ BitVec.ofBool label ++ BitVec.ofBool kind) :
    v.getLsbD 0 = kind ∧ v.getLsbD 1 = label ∧ v.getLsbD 2 = root ∧ v.extractLsb' 3 29 = 0 := by
  subst hv
  simp [-Nat.reduceAdd, BitVec.getElem_append, BitVec.extractLsb'_append_eq_of_le]

theorem ctrlWord_fields (padMode ie : Bool) {v : BitVec (30 + 1 + 1)}
    (hv : v = 0#30 ++ BitVec.ofBool padMode ++ BitVec.ofBool ie) :
    v.getLsbD 0 = ie ∧ v.getLsbD 1 = padMode ∧ v.extractLsb' 2 30 = 0 := by
  subst hv
  simp [-Nat.reduceAdd, BitVec.getElem_append, BitVec.extractLsb'_append_eq_of_le]

theorem param0Word_fields (freqW symW : BitVec 8) {v : BitVec (16 + 8 + 8)} (hv : v = 0#16 ++ freqW ++ symW) :
    v.extractLsb' 0 8 = symW ∧ v.extractLsb' 8 8 = freqW ∧ v.extractLsb' 16 16 = 0 := by
  subst hv
  simp [-Nat.reduceAdd, BitVec.extractLsb'_append_eq_of_le, BitVec.extractLsb'_append_eq_of_add_le]

theorem statusWord_fields (err : BitVec 4) (phase : BitVec 3) (irq busyErr done busy : Bool)
    {v : BitVec (20 + 4 + 1 + 3 + 1 + 1 + 1 + 1)}
    (hv : v = 0#20 ++ err ++ 0#1 ++ phase ++ BitVec.ofBool irq ++ BitVec.ofBool busyErr ++ BitVec.ofBool done
      ++ BitVec.ofBool busy) :
    v.getLsbD 0 = busy ∧ v.getLsbD 1 = done ∧ v.getLsbD 2 = busyErr ∧ v.getLsbD 3 = irq
      ∧ v.extractLsb' 4 3 = phase ∧ v.getLsbD 7 = false ∧ v.extractLsb' 8 4 = err ∧ v.extractLsb' 12 20 = 0 := by
  subst hv
  simp [-Nat.reduceAdd, BitVec.getElem_append, BitVec.extractLsb'_append_eq_of_le, BitVec.extractLsb'_append_eq_of_add_le]

/-! ### Nodes -/

theorem isInternal_iff (n : Node) : n.isInternal = true ↔ ∃ f l r, n = .internal f l r := by
  cases n <;> simp [Node.isInternal]

theorem hasRight_iff (v : Nat) (n : Node) : n.hasRight v = true ↔ ∃ f l, n = .internal f l v := by
  cases n <;> simp [Node.hasRight]

/-- A node is labelled "1" by a valid node that has it as its right child (10_state.md R43, R51). -/
theorem any_hasRight_iff (s : State) (v : Nat) : s.nodes.any (Node.hasRight v) = true ↔
    ∃ u < s.nodeCount.toNat, ∃ f l, Memory.read s.node u = .internal f l v := by
  simp [State.nodes, Memory.firstEntries, List.any_eq_true, hasRight_iff]

theorem nodeInfoValue_of_lt {s : State} (h : s.nodeIndex < s.nodeCount) : nodeInfoValue s =
    0#29 ++ BitVec.ofBool (s.nodeIndex == s.nodeCount - 1)
      ++ BitVec.ofBool (s.nodes.any (Node.hasRight s.nodeIndex.toNat))
      ++ BitVec.ofBool (Memory.read s.node s.nodeIndex.toNat).isInternal := if_pos h

/-! ### What a read answers -/

theorem next_readRegister_of_not_busy {s : State} (h : s.busy = false) (off : Nat) (v : Word) :
    (.next (s.readRegister off v) : Host.Outcome State Fault Refusal) = .next { s with rdata := v } :=
  congrArg _ (readRegister_of_not_busy h)

theorem next_readRegister_of_low_offset (s : State) {off : Nat} (h : off ≤ 0x20) (v : Word) :
    (.next (s.readRegister off v) : Host.Outcome State Fault Refusal) = .next { s with rdata := v } :=
  congrArg _ (readRegister_of_low_offset h)

end Sys2Proof.Machine

namespace Sys2Proof.Proofs

open Sys2Proof Sys2Proof.Machine

/-- Settles O12 by the concatenations that lay out STATUS and CTRL. -/
theorem statusAndControlReads : Obligations.StatusAndControlReads := by
  intro s
  refine ⟨⟨statusValue s, next_readRegister_of_low_offset s (by decide) _, ?_⟩,
    ⟨ctrlValue s, next_readRegister_of_low_offset s (by decide) _, ctrlWord_fields s.padMode s.ie rfl⟩,
    next_readRegister_of_low_offset s (by decide) 0⟩
  obtain ⟨hbusy, hdone, hbusyErr, hirq, hphase, h7, herr, hrest⟩ :=
    statusWord_fields (errField s.err) s.phase.code s.irq s.busyErr s.done s.busy (v := statusValue s) rfl
  refine ⟨hbusy, hdone, hbusyErr, hirq, hphase.trans ?_, h7, herr.trans ?_, hrest⟩
  · cases s.phase <;> rfl
  · rcases s.err with _ | e
    · rfl
    · cases e <;> rfl

/-- Settles O17: the bits of the number a bit string writes, read from its most significant end. -/
theorem codeWordReadBits : Obligations.CodeWordReadBits := by
  intro s hb
  refine ⟨tabCodewValue s, next_readRegister_of_not_busy hb _ _, fun hi hc j hj => ?_, fun hno => if_neg hno⟩
  have hv : tabCodewValue s = codeWord (Memory.read s.ctab s.tabIndex.toNat) s.tabWsel.toNat := if_pos ⟨hi, hc⟩
  rw [hv, getLsbD_codeWord _ _ hj, List.getD_eq_getElem?_getD]

/-- Settles O18 by the concatenation that lays out NODE_INFO. -/
theorem nodeInfoReadBits : Obligations.NodeInfoReadBits := by
  intro s hb
  refine ⟨nodeInfoValue s, next_readRegister_of_not_busy hb _ _, fun hi => ?_, fun hle => if_neg (Nat.not_lt.2 hle)⟩
  have hroot : s.nodeIndex = s.nodeCount - 1 ↔ s.nodeIndex.toNat = s.nodeCount.toNat - 1 := by
    bv_omega
  obtain ⟨hkind, hlabel, hlast, hrest⟩ := nodeInfoWord_fields _ _ _ (nodeInfoValue_of_lt hi)
  exact ⟨(Bool.eq_iff_iff.1 hkind).trans (isInternal_iff _), (Bool.eq_iff_iff.1 hlabel).trans (any_hasRight_iff s _),
    (Bool.eq_iff_iff.1 hlast).trans (beq_iff_eq.trans hroot), hrest⟩

/-- Settles O11: the identification registers stand at or below offset 0x20, where BUSY does not matter. -/
theorem identificationReads : Obligations.IdentificationReads := by
  intro s
  refine ⟨next_readRegister_of_low_offset s (by decide) _, next_readRegister_of_low_offset s (by decide) _,
    next_readRegister_of_low_offset s (by decide) _, next_readRegister_of_low_offset s (by decide) _,
    next_readRegister_of_low_offset s (by decide) _,
    param0Value s.cfg, next_readRegister_of_low_offset s (by decide) _, ?_⟩
  obtain ⟨hsym, hfreq, hrest⟩ :=
    param0Word_fields (BitVec.ofNat 8 Config.freqW) (BitVec.ofNat 8 s.cfg.symW) (v := param0Value s.cfg) rfl
  refine ⟨fun hwf => ?_, hfreq, hrest⟩
  obtain ⟨⟨-, hsymW⟩, ⟨-, hlen⟩, ⟨-, -, hsyms⟩, ⟨-, hout⟩, -⟩ := (Config.wf_iff s.cfg).1 hwf
  have toNat_ofNat {w n : Nat} (h : n < 2 ^ w) : (BitVec.ofNat w n).toNat = n := by
    rw [BitVec.toNat_ofNat, Nat.mod_eq_of_lt h]
  exact ⟨(congrArg BitVec.toNat hsym).trans (toNat_ofNat (by omega)), toNat_ofNat (by omega), toNat_ofNat (by omega),
    toNat_ofNat (by omega)⟩

/-- Settles O16: the order on words is the order on their numbers. -/
theorem tableReads : Obligations.TableReads := fun _ hb =>
  ⟨next_readRegister_of_not_busy hb _ _, next_readRegister_of_not_busy hb _ _, next_readRegister_of_not_busy hb _ _⟩

/-- Settles O19 by the kind of the selected node. -/
theorem nodeReads : Obligations.NodeReads := by
  intro s hb
  have hread (off : Nat) {v w : Word} (hv : v = w) :
      (.next (s.readRegister off v) : Host.Outcome State Fault Refusal) = .next { s with rdata := w } :=
    hv ▸ next_readRegister_of_not_busy hb off v
  refine ⟨fun hle i hi => ?_, fun hlt => ⟨fun f hn => ?_, fun f l r hn => ?_⟩⟩
  · have hout : ¬ s.nodeIndex < s.nodeCount := Nat.not_lt.2 hle
    simp only [List.mem_cons, List.not_mem_nil, or_false] at hi
    rcases hi with rfl | rfl | rfl <;> exact hread _ (if_neg hout)
  all_goals
    have hin : s.nodeIndex < s.nodeCount := hlt
    exact ⟨hread _ (by simp [nodeFreqValue, hin, hn, Node.freq]),
      hread _ (by simp [nodeLeftValue, hin, hn, Node.leftIndex]),
      hread _ (by simp [nodeRightValue, hin, hn, Node.rightIndex])⟩

end Sys2Proof.Proofs
end

section
/-! The bus of 20_memory.md: which offsets decode, where an access is placed, the lanes of a register value, and the
statements about bus accesses. -/

namespace Sys2Proof

/-! ### Misaligned words (30_encoding.md R78) -/

theorem readForm_of_misaligned {n : Nat} (h : n % 4 ≠ 0) : readForm n = none := by
  unfold readForm
  split
  case h_33 => rfl
  all_goals exact absurd rfl h

theorem writeForm_of_misaligned (v : Word) {n : Nat} (h : n % 4 ≠ 0) : writeForm v n = none := by
  unfold writeForm
  split
  case h_33 => rfl
  all_goals exact absurd rfl h

theorem decode_of_misaligned {w : BitVec 40} (h : (bowOffset w).toNat % 4 ≠ 0) :
    decode (.bow w) = .error (.misaligned (bowWrite w) (bowOffset w)) := by
  simp only [decode, decodeBow, readForm_of_misaligned h, writeForm_of_misaligned _ h, ite_self]

end Sys2Proof

namespace Sys2Proof.Machine

theorem hostAccess_of_misaligned {w : BitVec 40} (h : (bowOffset w).toNat % 4 ≠ 0) (s : State) :
    s.hostAccess (.bow w) = .next (s.undefinedAccess (bowWrite w)) := by
  simp only [State.hostAccess, decode_of_misaligned h]

/-- A misaligned BOW, given by its fields. -/
theorem hostAccess_bowWord_of_misaligned {off : BitVec 7} (h : off.toNat % 4 ≠ 0) (write : Bool) (v : Word)
    (s : State) : s.hostAccess (.bow (bowWord write off v)) = .next (s.undefinedAccess write) := by
  rw [hostAccess_of_misaligned (by rwa [bowOffset_bowWord]), bowWrite_bowWord]

/-! ### The lanes of a register value (20_memory.md R63) -/

@[simp] theorem length_busLanes (v : Word) : (busLanes v).length = 4 := rfl

@[simp] theorem wordOfLanes_busLanes (v : Word) : wordOfLanes (busLanes v) = v := by
  have h32 : v.extractLsb' 24 8 ++ v.extractLsb' 16 8 = v.extractLsb' 16 16 :=
    BitVec.extractLsb'_append_extractLsb'_eq_extractLsb' rfl
  have h21 : v.extractLsb' 16 16 ++ v.extractLsb' 8 8 = v.extractLsb' 8 24 :=
    BitVec.extractLsb'_append_extractLsb'_eq_extractLsb' rfl
  have h10 : v.extractLsb' 8 24 ++ v.extractLsb' 0 8 = v.extractLsb' 0 32 :=
    BitVec.extractLsb'_append_extractLsb'_eq_extractLsb' rfl
  calc wordOfLanes (busLanes v)
      = v.extractLsb' 24 8 ++ v.extractLsb' 16 8 ++ v.extractLsb' 8 8 ++ v.extractLsb' 0 8 := rfl
    _ = v := by rw [h32, h21, h10, BitVec.extractLsb'_eq_self]

/-! ### Where an access is placed (20_memory.md R59, R61; log entry 10) -/

theorem inWindow_iff (base addr : Nat) : inWindow base addr = true ↔ base ≤ addr ∧ addr < base + 128 := by
  simp [inWindow]

theorem inWindow_eq_false_iff (base addr : Nat) : inWindow base addr = false ↔ addr < base ∨ base + 128 ≤ addr := by
  simp [inWindow, imp_iff_not_or]

/-- The offset of an address in the window, as the 7 bits of OFF. -/
theorem toNat_windowOffset {base addr : Nat} (h : inWindow base addr = true) :
    (BitVec.ofNat 7 (addr - base)).toNat = addr - base := by
  obtain ⟨-, hlt⟩ := (inWindow_iff base addr).1 h
  rw [BitVec.toNat_ofNat, Nat.mod_eq_of_lt (by omega)]

theorem inWindow_base_add (base : Nat) (off : BitVec 7) : inWindow base (base + off.toNat) = true :=
  (inWindow_iff _ _).2 ⟨Nat.le_add_right _ _, Nat.add_lt_add_left off.isLt _⟩

section
variable {s : State} {addr : Nat}

theorem busAccess_read_outside (h : inWindow s.cfg.base addr = false) (size : Nat) :
    s.busAccess (.read addr size) = .next s := by
  simp only [State.busAccess, h, Bool.not_false, if_true]

theorem busAccess_write_outside (h : inWindow s.cfg.base addr = false) (bytes : List Byte) :
    s.busAccess (.write addr bytes) = .next s := by
  simp only [State.busAccess, h, Bool.not_false, if_true]

theorem busAccess_read_inside (h : inWindow s.cfg.base addr = true) (size : Nat) :
    s.busAccess (.read addr size) =
      if size = 4 then s.hostAccess (.bow (bowWord false (BitVec.ofNat 7 (addr - s.cfg.base)) 0))
      else .next (s.undefinedAccess false) := by
  simp only [State.busAccess, h, Bool.not_true, Bool.false_eq_true, if_false]

theorem busAccess_write_inside (h : inWindow s.cfg.base addr = true) (bytes : List Byte) :
    s.busAccess (.write addr bytes) =
      if bytes.length = 4 then
        s.hostAccess (.bow (bowWord true (BitVec.ofNat 7 (addr - s.cfg.base)) (wordOfLanes bytes)))
      else .next (s.undefinedAccess true) := by
  simp only [State.busAccess, h, Bool.not_true, Bool.false_eq_true, if_false]

/-- In the window, a read that is not an aligned 32-bit one is undefined. -/
theorem busAccess_read_undefined (h : inWindow s.cfg.base addr = true) {size : Nat}
    (hno : ¬ (size = 4 ∧ (addr - s.cfg.base) % 4 = 0)) :
    s.busAccess (.read addr size) = .next (s.undefinedAccess false) := by
  rw [busAccess_read_inside h]
  split
  · next hsize =>
    refine hostAccess_bowWord_of_misaligned (fun ha => hno ⟨hsize, ?_⟩) _ _ _
    rwa [toNat_windowOffset h] at ha
  · rfl

/-- In the window, a write that is not an aligned 32-bit one is undefined. -/
theorem busAccess_write_undefined (h : inWindow s.cfg.base addr = true) {bytes : List Byte}
    (hno : ¬ (bytes.length = 4 ∧ (addr - s.cfg.base) % 4 = 0)) :
    s.busAccess (.write addr bytes) = .next (s.undefinedAccess true) := by
  rw [busAccess_write_inside h]
  split
  · next hlen =>
    refine hostAccess_bowWord_of_misaligned (fun ha => hno ⟨hlen, ?_⟩) _ _ _
    rwa [toNat_windowOffset h] at ha
  · rfl

end

/-- A 4-byte read at BASE + OFF is the read BOW of OFF (30_encoding.md R78). -/
theorem busAccess_read_word (s : State) (off : BitVec 7) :
    s.busAccess (.read (s.cfg.base + off.toNat) 4) = s.hostAccess (.bow (bowWord false off 0)) := by
  rw [busAccess_read_inside (inWindow_base_add _ off), if_pos rfl, Nat.add_sub_cancel_left, BitVec.ofNat_toNat,
    BitVec.setWidth_eq]

/-- A write of a register value's lanes at BASE + OFF is the write BOW of OFF and that value (30_encoding.md R78). -/
theorem busAccess_write_word (s : State) (off : BitVec 7) (v : Word) :
    s.busAccess (.write (s.cfg.base + off.toNat) (busLanes v)) = s.hostAccess (.bow (bowWord true off v)) := by
  rw [busAccess_write_inside (inWindow_base_add _ off), if_pos (length_busLanes v), wordOfLanes_busLanes,
    Nat.add_sub_cancel_left, BitVec.ofNat_toNat, BitVec.setWidth_eq]

end Sys2Proof.Machine

namespace Sys2Proof.Proofs

open Sys2Proof Sys2Proof.Machine

/-- Settles O7: an undefined access, given by address or as a misaligned BOW, only answers 0 if it is a read. -/
theorem undefinedAccessesHaveNoEffect : Obligations.UndefinedAccessesHaveNoEffect := by
  intro s rest
  refine ⟨fun addr size hin hle hlt hno => ?_, fun addr bytes hin hle hlt hno => ?_, fun w hin hmis => ?_⟩
  · rw [step_of_inbox_cons hin]
    exact busAccess_read_undefined (s := { s with inbox := rest }) ((inWindow_iff _ _).2 ⟨hle, hlt⟩) hno
  · rw [step_of_inbox_cons hin]
    exact busAccess_write_undefined (s := { s with inbox := rest }) ((inWindow_iff _ _).2 ⟨hle, hlt⟩) hno
  · rw [step_of_inbox_cons hin]
    refine (hostAccess_of_misaligned hmis _).trans ?_
    cases bowWrite w <;> rfl

/-- Settles O8: an access is placed by `inWindow`; in the window it is the BOW of its offset. -/
theorem busAccessesByAddress : Obligations.BusAccessesByAddress := by
  intro s rest
  refine ⟨fun off _ => ⟨fun hin => ?_, fun v hin => ?_⟩, fun addr hout => ⟨fun size hin => ?_, fun bytes hin => ?_⟩⟩
  · rw [step_of_inbox_cons hin, step_of_inbox_cons rfl]
    exact busAccess_read_word { s with inbox := rest } off
  · rw [step_of_inbox_cons hin, step_of_inbox_cons rfl]
    exact busAccess_write_word { s with inbox := rest } off v
  · rw [step_of_inbox_cons hin]
    exact busAccess_read_outside (s := { s with inbox := rest }) ((inWindow_eq_false_iff _ _).2 hout) size
  · rw [step_of_inbox_cons hin]
    exact busAccess_write_outside (s := { s with inbox := rest }) ((inWindow_eq_false_iff _ _).2 hout) bytes

end Sys2Proof.Proofs
end

section
/-! The encoding of 30_encoding.md: the words of the instructions and what the decoder makes of every word, and the
writes that store their word (40_host_access.md R95 to R98). -/

namespace Sys2Proof

/-! ### Command words (30_encoding.md R79 to R81) -/

theorem legalCw_iff (cw : Word) :
    legalCw cw = true ↔ cw.extractLsb' 8 24 = 0 ∧ (cw.extractLsb' 0 8).toNat ≤ 0x06 := by
  rw [legalCw, Bool.and_eq_true, beq_iff_eq, decide_eq_true_iff, cwReserved, cwOpcode]

/-- The legal command words are the numbers 0 to 6. -/
theorem legalCw_iff_toNat_lt (cw : Word) : legalCw cw = true ↔ cw.toNat < 7 := by
  have hrsvd : cw.extractLsb' 8 24 = 0 ↔ cw.toNat / 2 ^ 8 = 0 := by
    rw [← BitVec.toNat_inj, BitVec.extractLsb'_toNat, Nat.shiftRight_eq_div_pow, Nat.mod_eq_of_lt (by omega)]
    rfl
  have hopc : (cw.extractLsb' 0 8).toNat = cw.toNat % 2 ^ 8 := by
    rw [BitVec.extractLsb'_toNat, Nat.shiftRight_zero]
  rw [legalCw_iff, hrsvd, hopc]
  omega

/-- The two readings of "illegal": `Instr.wellFormed` by the number, `legalCw` by the bits. -/
theorem wellFormed_illegalCw_iff (cw : Word) : (Instr.illegalCw cw).wellFormed = true ↔ ¬ legalCw cw = true := by
  rw [legalCw_iff_toNat_lt, Nat.not_lt]
  exact decide_eq_true_iff

theorem decodeCw_of_not_legal {cw : Word} (h : ¬ legalCw cw = true) : decodeCw cw = .illegalCw cw := if_neg h

/-- A command word decodes to a well-formed instruction whose word it is: one of the seven, or the illegal one. -/
theorem wellFormed_and_encode_decodeCw (cw : Word) :
    (decodeCw cw).wellFormed = true ∧ encode (decodeCw cw) = .cw cw := by
  by_cases hlegal : legalCw cw = true
  · have hlt : cw.toNat < 7 := (legalCw_iff_toNat_lt cw).1 hlegal
    have hseven : ∀ n < 7, (decodeCw (BitVec.ofNat 32 n)).wellFormed = true
        ∧ encode (decodeCw (BitVec.ofNat 32 n)) = .cw (BitVec.ofNat 32 n) := by decide
    simpa using hseven cw.toNat hlt
  · rw [decodeCw_of_not_legal hlegal]
    exact ⟨(wellFormed_illegalCw_iff cw).2 hlegal, rfl⟩

/-- No legal command word decodes to an illegal one, which would not be well-formed. -/
theorem decodeCw_eq_illegalCw_iff (cw : Word) : decodeCw cw = .illegalCw cw ↔ ¬ legalCw cw = true := by
  refine ⟨fun hdec => ?_, decodeCw_of_not_legal⟩
  have hwf := (wellFormed_and_encode_decodeCw cw).1
  rw [hdec] at hwf
  exact (wellFormed_illegalCw_iff cw).1 hwf

/-! ### Bus operation words (30_encoding.md R78, R80) -/

/-- A BOW decodes to the form its W selects at its OFF. -/
theorem decode_bow_eq_ok_iff {w : BitVec 40} {i : Instr} : decode (.bow w) = .ok i ↔
    (if bowWrite w then writeForm (bowData w) (bowOffset w).toNat else readForm (bowOffset w).toNat) = some i := by
  rw [decode, decodeBow]
  split
  · next hform => rw [hform, Except.ok.injEq, Option.some.injEq]
  · next hform => simp [hform]

theorem wellFormed_and_encode_of_readForm {n : Nat} {i : Instr} (h : readForm n = some i) :
    i.wellFormed = true ∧ encode i = encodeRead (BitVec.ofNat 7 n) := by
  unfold readForm at h
  split at h
  case h_33 => cases h
  all_goals cases h; exact ⟨rfl, rfl⟩

theorem wellFormed_and_encode_of_writeForm {v : Word} {n : Nat} {i : Instr} (h : writeForm v n = some i) :
    i.wellFormed = true ∧ encode i = encodeWrite (BitVec.ofNat 7 n) v := by
  unfold writeForm at h
  split at h
  case h_33 => cases h
  all_goals cases h; exact ⟨rfl, rfl⟩

/-- The 32 aligned offsets of the window each have a read and a write (30_encoding.md R80). -/
theorem exists_forms_of_aligned {n : Nat} (hlt : n < 128) (haligned : n % 4 = 0) (v : Word) :
    (∃ i, readForm n = some i) ∧ ∃ i, writeForm v n = some i := by
  obtain ⟨k, rfl⟩ := Nat.dvd_of_mod_eq_zero haligned
  have hk : k < 32 := by omega
  interval_cases k <;> exact ⟨⟨_, rfl⟩, ⟨_, rfl⟩⟩

theorem exists_decode_of_aligned {w : BitVec 40} (h : (bowOffset w).toNat % 4 = 0) :
    ∃ i, decode (.bow w) = .ok i := by
  simp only [decode_bow_eq_ok_iff]
  obtain ⟨hread, hwrite⟩ := exists_forms_of_aligned (bowOffset w).isLt h (bowData w)
  cases bowWrite w
  · exact hread
  · exact hwrite

/-! ### Every instruction -/

/-- The word of an instruction decodes to it: a command word's by its number, a bus operation's by its fields. -/
theorem decode_encode {i : Instr} (h : i.wellFormed = true) : decode (encode i) = .ok i := by
  cases i with
  | nop | clear | count | build | gentab | pack | run => rfl
  | illegalCw cw => exact congrArg Except.ok (decodeCw_of_not_legal ((wellFormed_illegalCw_iff cw).1 h))
  | rdId | rdVersion | rdParam0 | rdParam1 | rdParam2 | rdParam3 | rdCtrl | rdCmd | rdStatus | rdInData | rdInLen
  | rdNsym | rdNodeCount | rdRootFreq | rdBodyBits | rdPad | rdOutLen | rdOutPtr | rdOutData | rdTabIndex | rdTabSym
  | rdTabFreq | rdTabClen | rdTabWsel | rdTabCodew | rdNodeIndex | rdNodeInfo | rdNodeFreq | rdNodeLeft | rdNodeRight
  | rdCodeMaxlen | rdReserved7c => exact decode_read _ 0
  | wrId v | wrVersion v | wrParam0 v | wrParam1 v | wrParam2 v | wrParam3 v | wrCtrl v | wrCmd v | wrStatus v
  | wrInData v | wrInLen v | wrNsym v | wrNodeCount v | wrRootFreq v | wrBodyBits v | wrPad v | wrOutLen v | wrOutPtr v
  | wrOutData v | wrTabIndex v | wrTabSym v | wrTabFreq v | wrTabClen v | wrTabWsel v | wrTabCodew v | wrNodeIndex v
  | wrNodeInfo v | wrNodeFreq v | wrNodeLeft v | wrNodeRight v | wrCodeMaxlen v | wrReserved7c v =>
    exact decode_write _ v

/-- A well-formed instruction and its word, each from the other. -/
theorem encode_and_decode {i : Instr} {e : Encoded} (hwf : i.wellFormed = true) (henc : encode i = e) :
    encode i = e ∧ decode e = .ok i :=
  ⟨henc, henc ▸ decode_encode hwf⟩

end Sys2Proof

namespace Sys2Proof.Machine

theorem next_guardedWrite_of_not_busy {f : State → State} {s : State} (h : s.busy = false) :
    (.next (s.guardedWrite f) : Host.Outcome State Fault Refusal) = .next (f s) :=
  congrArg _ (guardedWrite_of_not_busy h)

end Sys2Proof.Machine

namespace Sys2Proof.Proofs

open Sys2Proof Sys2Proof.Machine

/-- Settles O1 by the kinds of words: command words, reads and writes. -/
theorem decodeEncodeRoundTrip : Obligations.DecodeEncodeRoundTrip := fun _ => decode_encode

/-- Settles O2: what W and OFF select has the word with that W and OFF. -/
theorem encodeDecodedWord : Obligations.EncodeDecodedWord := by
  refine ⟨fun w i hdec => ?_, fun cw i hdec => ?_⟩
  · rw [decode_bow_eq_ok_iff] at hdec
    have hoff : BitVec.ofNat 7 (bowOffset w).toNat = bowOffset w := by rw [BitVec.ofNat_toNat, BitVec.setWidth_eq]
    cases hw : bowWrite w with
    | false =>
      have hread := wellFormed_and_encode_of_readForm (by simpa [hw] using hdec)
      rwa [hoff] at hread
    | true =>
      have hwrite := wellFormed_and_encode_of_writeForm (by simpa [hw] using hdec)
      rwa [hoff] at hwrite
  · obtain rfl : decodeCw cw = i := Except.ok.inj hdec
    exact wellFormed_and_encode_decodeCw cw

/-- Settles O4: a misaligned offset selects no form, an aligned one a read and a write. -/
theorem bowDecodesIffAligned : Obligations.BowDecodesIffAligned := by
  refine fun w => ⟨⟨fun ⟨i, hdec⟩ => ?_, exists_decode_of_aligned⟩, decode_of_misaligned⟩
  by_contra hmis
  rw [decode_of_misaligned hmis] at hdec
  cases hdec

/-- Settles O3: the example words by evaluation, the top byte by the BOW as a number. -/
theorem encodingExamples : Obligations.EncodingExamples := by
  refine ⟨encode_and_decode rfl (by decide), encode_and_decode rfl (by decide), encode_and_decode rfl (by decide),
    encode_and_decode rfl (by decide), encode_and_decode rfl (by decide), fun write off d => ?_⟩
  rw [toNat_bowWord]
  cases write <;> simp <;> omega

/-- Settles O5: the decoder answers the illegal word exactly where `legalCw` is false. -/
theorem commandWordLegality : Obligations.CommandWordLegality := fun cw =>
  (decodeCw_eq_illegalCw_iff cw).trans (not_congr (legalCw_iff cw))

/-- Settles O22: while BUSY = 0 a guarded write is the write itself. -/
theorem indexAndPointerWrites : Obligations.IndexAndPointerWrites := fun _ _ hb =>
  ⟨next_guardedWrite_of_not_busy hb, next_guardedWrite_of_not_busy hb, next_guardedWrite_of_not_busy hb,
    next_guardedWrite_of_not_busy hb⟩

end Sys2Proof.Proofs
end

section
/-! The host accesses of 40_host_access.md: the reads, the pop and the busy rule (R89 to R91), CTRL, command words and
pushes (R92 to R94), the ignored writes (R99), and that a write while BUSY = 1 does not disturb the core (R100). -/

namespace Sys2Proof.Machine

/-! ### The busy rules (40_host_access.md R90, R100) -/

section
variable {s : State}

theorem next_readRegister_of_busy (h : s.busy = true) {off : Nat} (ho : 0x20 < off) (v : Word) :
    (.next (s.readRegister off v) : Host.Outcome State Fault Refusal) = .next { s with rdata := 0 } :=
  congrArg _ (readRegister_of_busy h ho)

theorem next_guardedWrite_of_busy (h : s.busy = true) (f : State → State) :
    (.next (s.guardedWrite f) : Host.Outcome State Fault Refusal) = .next { s with busyErr := true } :=
  congrArg _ (guardedWrite_of_busy h)

/-! ### Reads (40_host_access.md R89 to R91) -/

/-- Every read but the pop is a plain register read at its offset. -/
theorem exec_eq_readRegister {n : Nat} {i : Instr} (h : readForm n = some i) (hpop : i ≠ .rdOutData) :
    ∃ value : State → Word, ∀ s, exec i s = .next (s.readRegister n (value s)) := by
  unfold readForm at h
  split at h
  case h_19 => exact absurd (Option.some.inj h).symm hpop
  case h_33 => cases h
  all_goals cases h; exact ⟨_, fun _ => rfl⟩

theorem exec_rdOutData_of_busy (h : s.busy = true) : exec .rdOutData s = .next { s with rdata := 0 } := if_pos h

theorem exec_rdOutData_of_lt (h : s.busy = false) (hlt : s.outPtr < s.outLen) :
    exec .rdOutData s = .next { s with
      rdata := (Memory.read s.obuf s.outPtr.toNat).setWidth 32
      outPtr := s.outPtr + 1 } := by
  have hvalue : outDataValue s = (Memory.read s.obuf s.outPtr.toNat).setWidth 32 := if_pos hlt
  rw [← hvalue]
  exact (if_neg (by simp [h])).trans (if_pos hlt)

theorem exec_rdOutData_of_le (h : s.busy = false) (hle : s.outLen ≤ s.outPtr) :
    exec .rdOutData s = .next { s with rdata := 0 } :=
  (if_neg (by simp [h])).trans (if_neg (BitVec.not_lt.2 hle))

theorem exec_read_of_busy (hb : s.busy = true) {n : Nat} {i : Instr} (h : readForm n = some i) (hn : 0x20 < n) :
    exec i s = .next { s with rdata := 0 } := by
  by_cases hpop : i = .rdOutData
  · rw [hpop, exec_rdOutData_of_busy hb]
  · obtain ⟨value, hvalue⟩ := exec_eq_readRegister h hpop
    rw [hvalue, next_readRegister_of_busy hb hn]

/-- The low bit of a word falls by subtracting 1. -/
theorem append_ofBool_true_sub_one {w : Nat} (x : BitVec w) : x ++ BitVec.ofBool true - 1 = x ++ BitVec.ofBool false := by
  refine sub_eq_of_eq_add (BitVec.eq_of_toNat_eq ?_)
  have hx := x.isLt
  have hlt : x.toNat * 2 + 1 < 2 ^ (w + 1) := by omega
  have hone : (1 : BitVec (w + 1)).toNat = 1 := Nat.mod_eq_of_lt (Nat.one_lt_two_pow w.succ_ne_zero)
  rw [BitVec.toNat_add, hone, BitVec.toNat_append, BitVec.toNat_append, ← Nat.shiftLeft_add_eq_or_of_lt (by simp),
    ← Nat.shiftLeft_add_eq_or_of_lt (by simp)]
  simpa [Nat.shiftLeft_eq] using (Nat.mod_eq_of_lt hlt).symm

/-- With nothing pending STATUS differs in BUSY, its bit 0, only (10_state.md R23). -/
theorem statusValue_unpend (h : s.busy = true) : statusValue { s with pending := none } = statusValue s - 1 := by
  rw [statusValue, statusValue, h]
  exact (append_ofBool_true_sub_one _).symm

end

/-! ### Command words (40_host_access.md R93, 41_commands.md R101) -/

theorem accept_clear (s : State) : s.accept 0x00000001 = s.clearRun := ite_self _

theorem accept_of_busy {s : State} (h : s.busy = true) {cw : Word} (hcw : cw ≠ 0x00000001) :
    s.accept cw = s.markBusyErr := by
  rw [State.accept, if_pos h]
  exact if_neg hcw

theorem accept_of_not_legal {cw : Word} (h : ¬ legalCw cw = true) (s : State) :
    s.accept cw = s.guardedWrite State.rejectCommand := by
  have hcw : cw ≠ 0x00000001 := fun hc => h (by rw [hc]; decide)
  rcases guardedWrite_cases State.rejectCommand s with ⟨hb, hg⟩ | ⟨hb, hg⟩ <;> rw [hg]
  · exact accept_of_busy hb hcw
  · rw [State.accept, if_neg (by simp [hb]), if_pos (by simp [h])]

/-- The seven legal words, each by evaluation, and the illegal ones. -/
theorem exec_wrCmd (cw : Word) (s : State) : exec (.wrCmd cw) s = exec (decodeCw cw) s := by
  by_cases h : legalCw cw = true
  · have hlt : cw.toNat < 7 := (legalCw_iff_toNat_lt cw).1 h
    obtain ⟨n, hn, rfl⟩ : ∃ n < 7, cw = BitVec.ofNat 32 n := ⟨cw.toNat, hlt, by simp⟩
    interval_cases n
    · rfl
    · exact congrArg _ (accept_clear s)
    all_goals rfl
  · rw [decodeCw_of_not_legal h]
    exact congrArg _ (accept_of_not_legal h s)

/-! ### Pushes (40_host_access.md R94) -/

/-- No word has a bit above 31, so only a SYM_W below 32 restricts it (30_encoding.md R83). -/
theorem symbolOutOfRange_eq_false {symW : Nat} {v : Word} (h : symW < 32 → v.toNat < 2 ^ symW) :
    symbolOutOfRange symW v = false := by
  by_cases hw : symW < 32
  · exact (symbolOutOfRange_eq_false_iff symW v).2 (h hw)
  · simp [symbolOutOfRange, hw]

theorem symbolOutOfRange_eq_true {symW : Nat} {v : Word} (h : 2 ^ symW ≤ v.toNat) :
    symbolOutOfRange symW v = true := by
  rw [← Bool.not_eq_false, symbolOutOfRange_eq_false_iff]
  exact Nat.not_lt.2 h

section
variable {s : State} {v : Word}

theorem exec_wrInData_of_not_busy (h : s.busy = false) : exec (.wrInData v) s = .next (s.pushSymbol v) :=
  congrArg _ (guardedWrite_of_not_busy h)

theorem pushSymbol_of_error (h : s.phase = .error) : s.pushSymbol v = s := if_pos h

theorem pushSymbol_of_wrong_phase (hne : s.phase ≠ .error) (hni : s.phase ≠ .idle) :
    s.pushSymbol v = s.enterError .sequence := by
  rw [State.pushSymbol, if_neg hne, if_pos hni]

theorem pushSymbol_of_idle (h : s.phase = .idle) : s.pushSymbol v =
    if symbolOutOfRange s.cfg.symW v then s.enterError .symbolRange
    else if s.inLen.toNat = s.cfg.maxLen then s.enterError .inputOverflow
    else { s with ibuf := Memory.write s.ibuf s.inLen.toNat v, inLen := s.inLen + 1 } := by
  rw [State.pushSymbol, if_neg (by simp [h]), if_neg (by simp [h])]

theorem pushSymbol_out_of_range (h : s.phase = .idle) (hr : symbolOutOfRange s.cfg.symW v = true) :
    s.pushSymbol v = s.enterError .symbolRange := by
  rw [pushSymbol_of_idle h, if_pos hr]

theorem pushSymbol_full (h : s.phase = .idle) (hr : symbolOutOfRange s.cfg.symW v = false)
    (hfull : s.inLen.toNat = s.cfg.maxLen) : s.pushSymbol v = s.enterError .inputOverflow := by
  rw [pushSymbol_of_idle h, if_neg (by simp [hr]), if_pos hfull]

theorem pushSymbol_stored (h : s.phase = .idle) (hr : symbolOutOfRange s.cfg.symW v = false)
    (hroom : s.inLen.toNat ≠ s.cfg.maxLen) :
    s.pushSymbol v = { s with ibuf := Memory.write s.ibuf s.inLen.toNat v, inLen := s.inLen + 1 } := by
  rw [pushSymbol_of_idle h, if_neg (by simp [hr]), if_neg hroom]

end

/-! ### Ignored writes (40_host_access.md R99) -/

/-- The write at every offset but the seven of R92 to R98 changes no state. -/
theorem exec_ignored_write {v : Word} {n : Nat} {i : Instr} (h : writeForm v n = some i)
    (hn : n ∉ [0x18, 0x1C, 0x24, 0x44, 0x4C, 0x5C, 0x64]) (s : State) : exec i s = .next s := by
  unfold writeForm at h
  split at h
  case h_7 | h_8 | h_10 | h_18 | h_20 | h_24 | h_26 => exact absurd (by decide) hn
  case h_33 => cases h
  all_goals cases h; rfl

/-! ### The core does not see BUSYERR (40_host_access.md R100) -/

/-- No stage reads or writes BUSYERR. -/
theorem Stage.perform_markBusyErr {p q : Phase} {perform : State → Except Err State} (hstage : Stage p perform q)
    (s : State) : perform s.markBusyErr = (perform s).map State.markBusyErr := by
  cases hstage with
  | count => simp only [performCount, apply_ite (Except.map State.markBusyErr)]; rfl
  | build => simp only [performBuild, apply_ite (Except.map State.markBusyErr)]; rfl
  | gentab => rfl
  | pack =>
    have hinput : encodeInput s.markBusyErr.table s.markBusyErr.codes s.markBusyErr.input
      = encodeInput s.table s.codes s.input := rfl
    rw [performPack, performPack, hinput]
    cases encodeInput s.table s.codes s.input with
    | error e => rfl
    | ok bits => simp only [apply_ite (Except.map State.markBusyErr)]; rfl

theorem StagePath.performStages_markBusyErr {p r : Phase} {stages : List ((State → Except Err State) × Phase)}
    (hpath : StagePath p stages r) (s : State) :
    performStages stages s.markBusyErr =
      ((performStages stages s).1.markBusyErr, (performStages stages s).2) := by
  induction hpath generalizing s with
  | nil => rfl
  | @cons _ q _ perform _ stage _ ih =>
    simp only [performStages, stage.perform_markBusyErr]
    cases perform s with
    | error e => rfl
    | ok s' => exact ih { s' with phase := q }

theorem finish_markBusyErr (op : Operation) (r : State) (e : Option Err) :
    State.finish op (r.markBusyErr, e) = (State.finish op (r, e)).markBusyErr := by
  cases e <;> rfl

theorem coreStep_markBusyErr (s : State) : s.markBusyErr.coreStep = s.coreStep.markBusyErr := by
  cases h : s.pending with
  | none => rw [coreStep_of_none h, coreStep_of_none (s := s.markBusyErr) h]
  | some op =>
    rw [coreStep_eq_stages h, coreStep_eq_stages (s := s.markBusyErr) h, op.path.performStages_markBusyErr,
      finish_markBusyErr]

end Sys2Proof.Machine

namespace Sys2Proof.Proofs

open Sys2Proof Sys2Proof.Machine

/-- Settles O13: the offsets above 0x20 are those of the busy rule, and no value at or below it but STATUS reads
PENDING. -/
theorem readsWhileBusy : Obligations.ReadsWhileBusy := by
  intro s hb
  refine ⟨fun i hi => ?_, fun i hi => ?_, statusValue s, next_readRegister_of_low_offset s (by decide) _, ?_⟩
  · have hoffset : ∃ k < 23, readForm (0x24 + 4 * k) = some i := by
      revert i
      decide
    obtain ⟨k, -, hread⟩ := hoffset
    exact exec_read_of_busy hb hread (by omega)
  · fin_cases hi <;>
      exact ⟨_, next_readRegister_of_low_offset s (by decide) _, next_readRegister_of_low_offset _ (by decide) _⟩
  · rw [← statusValue_unpend hb]
    exact next_readRegister_of_low_offset _ (by decide) _

/-- Settles O23: the busy rule, and a core step that neither reads nor writes BUSYERR. -/
theorem writesWhileBusyOnlyMark : Obligations.WritesWhileBusyOnlyMark := by
  intro s v hb
  refine ⟨fun i hi => ?_, fun hv => congrArg _ (accept_of_busy hb hv), coreStep_markBusyErr s⟩
  fin_cases hi <;> exact next_guardedWrite_of_busy hb _

/-- Settles O24, one lemma about `State.pushSymbol` for each branch. -/
theorem pushStoresSymbol : Obligations.PushStoresSymbol := by
  intro s v
  refine ⟨fun hb => next_guardedWrite_of_busy hb _, fun hb hp => ?_, fun hb he hi => ?_, fun hb hp _ hr => ?_,
    fun hb hp hr => ⟨fun hfull => ?_, fun hroom hwf => ?_⟩⟩ <;> rw [exec_wrInData_of_not_busy hb]
  · rw [pushSymbol_of_error hp]
  · rw [pushSymbol_of_wrong_phase he hi]; rfl
  · rw [pushSymbol_out_of_range hp (symbolOutOfRange_eq_true hr)]; rfl
  · rw [pushSymbol_full hp (symbolOutOfRange_eq_false hr) hfull]; rfl
  · rw [pushSymbol_stored hp (symbolOutOfRange_eq_false hr) hroom]
    exact ⟨_, rfl, rfl, (Memory.read_write hwf _ v _).trans (if_pos rfl),
      fun k hk => (Memory.read_write hwf _ v k).trans (if_neg hk)⟩

/-- Settles O26 by the legal command words and the illegal ones. -/
theorem cmdWriteActsAsItsCommand : Obligations.CmdWriteActsAsItsCommand := fun s cw => exec_wrCmd cw s

/-- Settles O14: while BUSY = 0 a register read answers the register's value. -/
theorem plainRegisterReads : Obligations.PlainRegisterReads := by
  intro s hb
  have hread := next_readRegister_of_not_busy hb
  exact ⟨hread _ _, hread _ _, hread _ _, hread _ _, hread _ _, hread _ _, hread _ _, hread _ _, hread _ _, hread _ _,
    hread _ _, hread _ _, hread _ _, hread _ _⟩

/-- Settles O15: the three branches of the pop; in PHASE ERROR OUT_LEN is 0. -/
theorem popReturnsByteAndAdvances : Obligations.PopReturnsByteAndAdvances := by
  refine ⟨fun d => decode_read 0x48 d, fun s => ⟨exec_rdOutData_of_busy, fun hb hlt => ?_, exec_rdOutData_of_le,
    fun herr hp => ?_⟩⟩
  · refine ⟨exec_rdOutData_of_lt hb hlt, ?_⟩
    have hlen := s.outLen.isLt
    rw [BitVec.toNat_add]
    exact Nat.mod_eq_of_lt (by simp; omega)
  · obtain ⟨-, hentered⟩ := (errorConsistent_iff s).1 herr
    obtain ⟨-, hpending, hlen⟩ := hentered hp
    exact exec_rdOutData_of_le ((busy_eq_false_iff s).2 hpending) (by rw [hlen]; exact Nat.zero_le _)

/-- Settles O20: the writes by name each do nothing, and so do those of the other offsets. -/
theorem writesToReadOnlyIgnored : Obligations.WritesToReadOnlyIgnored := by
  refine ⟨fun s v i hi => by fin_cases hi <;> rfl, fun off v haligned hoff => ?_⟩
  obtain ⟨-, i, hi⟩ := exists_forms_of_aligned off.isLt haligned v
  refine ⟨i, by rw [decode_write, hi], exec_ignored_write hi fun hn => hoff ?_⟩
  exact (List.mem_map_of_injective fun _ _ => BitVec.eq_of_toNat_eq).1 hn

/-- Settles O21: `State.setCtrl` behind the busy rule. -/
theorem ctrlWrite : Obligations.CtrlWrite :=
  ⟨fun v => decode_write 0x18 v, fun _ _ =>
    ⟨fun hb => next_guardedWrite_of_busy hb _, fun hb => ⟨_, next_guardedWrite_of_not_busy hb, rfl, rfl⟩⟩⟩

end Sys2Proof.Proofs
end

section
/-! The commands of 41_commands.md: acceptance branch by branch (R101, R102), NOP and CLEAR (R104, R105), the core step and
its turn (R103, R107), and RUN as the four stages it performs (R106). -/

namespace Sys2Proof.Machine

/-! ### Acceptance (41_commands.md R101, R102) -/

section
variable {s : State} {op : Operation}

theorem requestOperation_of_error (h : s.phase = .error) : s.requestOperation op = s := if_pos h

theorem requestOperation_of_wrong_phase (hne : s.phase ≠ .error) (hneed : s.phase ≠ op.need) :
    s.requestOperation op = s.enterError .sequence := by
  rw [State.requestOperation, if_neg hne, if_pos hneed]

theorem requestOperation_of_need (h : s.phase = op.need) :
    s.requestOperation op = { s with done := false, pending := some op } := by
  have hne : s.phase ≠ .error := h ▸ op.need_ne_error
  rw [State.requestOperation, if_neg hne, if_neg (not_not.2 h)]

theorem exec_wrCmd_of_illegal {cw : Word} (hcw : 0x06 < cw.toNat) (hb : s.busy = false) :
    exec (.wrCmd cw) s = .next s.rejectCommand := by
  have hlegal : ¬ legalCw cw = true := by rw [legalCw_iff_toNat_lt]; omega
  rw [exec_wrCmd, decodeCw_of_not_legal hlegal]
  exact next_guardedWrite_of_not_busy hb

end

/-- CLEAR is the exact word 1 (30_encoding.md R80): a command word encodes again to itself. -/
theorem decodeCw_eq_clear_iff (cw : Word) : decodeCw cw = .clear ↔ cw = 0x00000001 := by
  refine ⟨fun hdec => ?_, fun hcw => hcw ▸ rfl⟩
  have henc : encode (decodeCw cw) = .cw cw := (wellFormed_and_encode_decodeCw cw).2
  rw [hdec] at henc
  exact (Encoded.cw.inj henc).symm

/-! ### The core step and its turn (41_commands.md R103, R107) -/

theorem finish_pending (op : Operation) (r : State × Option Err) : (State.finish op r).pending = none := by
  rcases finish_cases op r with ⟨-, h⟩ | ⟨e, -, h⟩ <;> rw [h] <;> rfl

theorem finish_done (op : Operation) (r : State × Option Err) : (State.finish op r).done = true := by
  rcases finish_cases op r with ⟨-, h⟩ | ⟨e, -, h⟩ <;> rw [h] <;> rfl

theorem coreStep_pending (s : State) : s.coreStep.pending = none := by
  cases h : s.pending with
  | none => rw [coreStep_of_none h, h]
  | some op => rw [coreStep_eq_stages h, finish_pending]

/-- An operation of one stage that fails commits nothing (41_commands.md R103). -/
theorem fst_performStages_of_failed {op : Operation} (hop : op ≠ .run) {s : State} {e : Err}
    (h : (performStages op.stages s).2 = some e) : (performStages op.stages s).1 = s := by
  obtain ⟨perform, hstages⟩ : ∃ perform, op.stages = [(perform, op.next)] := by
    cases op with
    | run => exact absurd rfl hop
    | count | build | gentab | pack => exact ⟨_, rfl⟩
  rw [hstages] at h ⊢
  rcases performStages_cons perform op.next [] s with ⟨e', -, hr⟩ | ⟨s', -, hr⟩ <;> rw [hr] at h ⊢
  cases h

theorem HostEffect.inbox_eq {i : Instr} {s t : State} (h : HostEffect i s t) : t.inbox = s.inbox := by
  cases h <;> rfl

theorem coreKeeps_inbox (events : List Event) : CoreKeeps fun s => s.inbox = events where
  count h ht := by obtain ⟨-, rfl⟩ := eq_of_performCount_ok ht; exact h
  build h ht := by obtain ⟨-, _, -, rfl⟩ := eq_of_performBuild_ok ht; exact h
  gentab h ht := by obtain rfl := eq_of_performGentab_ok ht; exact h
  pack h ht := by obtain ⟨_, _, -, -, -, rfl⟩ := eq_of_performPack_ok ht; exact h
  phase _ h := h
  completed _ h := h
  failed _ h := h

theorem coreStep_inbox (s : State) : s.coreStep.inbox = s.inbox := (coreKeeps_inbox s.inbox).coreStep rfl

/-- A step takes the first event, if one is left, and adds none (log entry 4). -/
theorem step_inbox {s t : State} (h : step s = .next t) : t.inbox = s.inbox.tail := by
  cases stepEffect_of_step h with
  | alone none_left => rw [coreStep_inbox, none_left]; rfl
  | core rest next => rw [coreStep_inbox, next]; rfl
  | reset rest next => rw [next]; rfl
  | host e rest i _ next effect => rw [effect.inbox_eq, next]; rfl
  | skipped e rest v next => rw [next]; rfl

theorem step_of_inbox_nil {s : State} (h : s.inbox = []) : step s = .next s.coreStep := by
  simp only [step, State.takeTurn, h]

theorem run_succ_of_step (M : Host.Core) {s t : M.State} (h : M.step s = .next t) (n : Nat) :
    M.run (n + 1) s = M.run n t := by
  rw [Host.Core.run, h]

/-- Once every event has happened, the core's turn leaves nothing pending (70_reset_and_hazards.md R165). -/
theorem run_empties_inbox (events : List Event) : ∀ s : State, s.inbox = events →
    ∃ t : State, Sys2Proof.core.run (events.length + 1) s = .next t ∧ t.inbox = [] ∧ t.busy = false := by
  induction events with
  | nil =>
    intro s hs
    have hrun := run_succ_of_step Sys2Proof.core (step_of_inbox_nil hs) 0
    exact ⟨s.coreStep, hrun, (coreStep_inbox s).trans hs, (busy_eq_false_iff _).2 (coreStep_pending s)⟩
  | cons e rest ih =>
    intro s hs
    obtain ⟨t, ht, -⟩ := step_effect s
    have hrest : t.inbox = rest := by rw [step_inbox ht, hs]; rfl
    obtain ⟨u, hu, hend⟩ := ih t hrest
    exact ⟨u, (run_succ_of_step Sys2Proof.core ht _).trans hu, hend⟩

/-! ### RUN stage by stage (41_commands.md R106) -/

/-- DONE and PENDING set together, as acceptance and the end of a core step set them. -/
def State.handshake (done : Bool) (pending : Option Operation) (s : State) : State :=
  { s with done := done, pending := pending }

/-- No stage reads or writes DONE or PENDING. -/
theorem Stage.perform_handshake {p q : Phase} {perform : State → Except Err State} (hstage : Stage p perform q)
    (d : Bool) (o : Option Operation) (s : State) :
    perform (s.handshake d o) = (perform s).map (State.handshake d o) := by
  cases hstage with
  | count =>
    rcases performCount_cases s with ⟨hlt, h⟩ | ⟨hle, h⟩ <;> rw [h]
    · exact if_pos hlt
    · exact if_neg (Nat.not_lt.2 hle)
  | build =>
    rcases performBuild_cases s with ⟨hempty, h⟩ | ⟨hne, _, rfl, h⟩ <;> rw [h]
    · exact if_pos hempty
    · exact if_neg hne
  | gentab => rfl
  | pack =>
    have hinput : encodeInput (s.handshake d o).table (s.handshake d o).codes (s.handshake d o).input
      = encodeInput s.table s.codes s.input := rfl
    simp only [performPack, hinput]
    cases encodeInput s.table s.codes s.input with
    | error e => rfl
    | ok bits => simp only [apply_ite (Except.map (State.handshake d o))]; rfl

theorem StagePath.performStages_handshake {p r : Phase} {stages : List ((State → Except Err State) × Phase)}
    (hpath : StagePath p stages r) (d : Bool) (o : Option Operation) (s : State) :
    performStages stages (s.handshake d o) =
      ((performStages stages s).1.handshake d o, (performStages stages s).2) := by
  induction hpath generalizing s with
  | nil => rfl
  | @cons _ q _ perform _ stage _ ih =>
    simp only [performStages, stage.perform_handshake]
    cases perform s with
    | error e => rfl
    | ok s' => exact ih { s' with phase := q }

/-- The end of a core step writes DONE and PENDING, whatever they were. -/
theorem StagePath.finish_handshake {p r : Phase} {stages : List ((State → Except Err State) × Phase)}
    (hpath : StagePath p stages r) (op : Operation) (d : Bool) (o : Option Operation) (s : State) :
    State.finish op (performStages stages (s.handshake d o)) = State.finish op (performStages stages s) := by
  rw [hpath.performStages_handshake]
  rcases performStages stages s with ⟨t, _ | e⟩ <;> rfl

theorem StagePath.phase_eq {p r : Phase} {stages : List ((State → Except Err State) × Phase)}
    (hpath : StagePath p stages r) {s t : State} (hp : s.phase = p) (h : performStages stages s = (t, none)) :
    t.phase = r := by
  induction hpath generalizing s with
  | nil => cases h; exact hp
  | cons stage path ih =>
    rcases performStages_cons _ _ _ s with ⟨e, -, hr⟩ | ⟨s', -, hr⟩ <;> rw [hr] at h
    · cases h
    · exact ih rfl h

theorem performStages_append (front back : List ((State → Except Err State) × Phase)) (s : State) :
    (∃ t e, performStages front s = (t, some e) ∧ performStages (front ++ back) s = (t, some e))
    ∨ ∃ t, performStages front s = (t, none) ∧ performStages (front ++ back) s = performStages back t := by
  induction front generalizing s with
  | nil => exact .inr ⟨s, rfl, rfl⟩
  | cons stage front ih =>
    obtain ⟨perform, phase⟩ := stage
    cases hs : perform s with
    | error e => exact .inl ⟨s, e, by simp [performStages, hs], by simp [performStages, hs]⟩
    | ok s' => simpa [performStages, hs] using ih { s' with phase := phase }

/-- What RUN has still to do when the stages before have ended in this state: nothing after an error, else the stages
left. -/
def State.continueRun (stages : List ((State → Except Err State) × Phase)) (s : State) : State :=
  if s.phase = .error then s else State.finish .run (performStages stages s)

/-- A state in which nothing is pending and the next stage is due, or an error has ended the run. -/
structure State.AwaitsPhase (p : Phase) (s : State) : Prop where
  idle : s.pending = none
  due : s.phase = .error ∨ s.phase = p

section
variable {s : State} {op : Operation}

theorem coreStep_requestOperation (h : s.phase = op.need) :
    (s.requestOperation op).coreStep = State.finish op (performStages op.stages s) := by
  rw [requestOperation_of_need h, coreStep_eq_stages rfl]
  exact op.path.finish_handshake op false (some op) s

theorem State.AwaitsPhase.coreStep (h : s.AwaitsPhase op.need) :
    (s.requestOperation op).coreStep.AwaitsPhase op.next := by
  refine ⟨coreStep_pending _, ?_⟩
  rcases h.due with herr | hneed
  · rw [requestOperation_of_error herr, coreStep_of_none h.idle]
    exact .inl herr
  · rw [coreStep_requestOperation hneed]
    rcases finish_cases op (performStages op.stages s) with ⟨-, hs⟩ | ⟨e, -, hs⟩ <;> rw [hs]
    · exact .inr rfl
    · exact .inl rfl

/-- The command of an operation and its core step do the stages of that operation. -/
theorem State.AwaitsPhase.continueRun (h : s.AwaitsPhase op.need)
    {back : List ((State → Except Err State) × Phase)} {r : Phase} (hback : StagePath op.next back r) :
    s.continueRun (op.stages ++ back) = (s.requestOperation op).coreStep.continueRun back := by
  rcases h.due with herr | hneed
  · rw [requestOperation_of_error herr, coreStep_of_none h.idle, State.continueRun, State.continueRun, if_pos herr,
      if_pos herr]
  · rw [State.continueRun, if_neg (hneed ▸ op.need_ne_error), coreStep_requestOperation hneed]
    rcases performStages_append op.stages back s with ⟨t, e, hfront, hall⟩ | ⟨t, hfront, hall⟩ <;> rw [hfront, hall]
    · exact (if_pos rfl).symm
    · have hphase : t.phase = op.next := op.path.phase_eq hneed hfront
      have hdone : State.finish op (t, none) = t.handshake true none := by
        change State.complete op _ = _
        rw [State.complete, ← hphase]
        rfl
      have hgood : (t.handshake true none).phase ≠ .error := hphase ▸ op.next_ne_error
      rw [hdone, State.continueRun, if_neg hgood]
      exact (hback.finish_handshake .run true none t).symm

/-- PACK is RUN's last stage and leaves the PHASE that RUN leaves. -/
theorem State.AwaitsPhase.continueRun_pack (h : s.AwaitsPhase .tabled) :
    s.continueRun Operation.pack.stages = (s.requestOperation .pack).coreStep := by
  rcases h.due with herr | hneed
  · rw [requestOperation_of_error herr, coreStep_of_none h.idle, State.continueRun, if_pos herr]
  · rw [State.continueRun, if_neg (by simp [hneed]), coreStep_requestOperation hneed]
    rfl

theorem coreStep_requestOperation_run (h : s.phase = .idle) :
    (s.requestOperation .run).coreStep = s.continueRun runStages := by
  rw [coreStep_requestOperation h, State.continueRun, if_neg (by simp [h])]
  rfl

end

end Sys2Proof.Machine

namespace Sys2Proof.Proofs

open Sys2Proof Sys2Proof.Machine

/-- Settles O50: RUN's stages are those of COUNT, BUILD, GENTAB and PACK in a row, and each of these commands, with its
core step, does its own and leaves the rest. -/
theorem runEqualsItsStages : Obligations.RunEqualsItsStages := by
  intro s hb hphase
  have hidle : s.AwaitsPhase Operation.count.need := ⟨(busy_eq_false_iff s).1 hb, .inr hphase⟩
  have hcounted : (s.requestOperation .count).coreStep.AwaitsPhase Operation.build.need := hidle.coreStep
  have hbuilt := hcounted.coreStep (op := .build)
  have htabled := hbuilt.coreStep (op := .gentab)
  have hcount := hidle.continueRun (.cons .build (.cons .gentab (.cons .pack (.nil _))))
  have hbuild := hcounted.continueRun (.cons .gentab (.cons .pack (.nil _)))
  have hgentab := hbuilt.continueRun (op := .gentab) (.cons .pack (.nil _))
  have hrun := coreStep_requestOperation_run hphase
  have haccept {t : State} {p : Phase} (h : t.AwaitsPhase p) (op : Operation) :=
    next_guardedWrite_of_not_busy (f := State.requestOperation op) ((busy_eq_false_iff t).2 h.idle)
  exact ⟨s.requestOperation .run, _, _, _, _, haccept hidle .run, requestOperation_of_need hphase,
    haccept hidle .count, haccept hcounted .build, haccept hbuilt .gentab, haccept htabled .pack,
    hrun.trans (hcount.trans (hbuild.trans (hgentab.trans htabled.continueRun_pack)))⟩

/-- Settles O37: the stages keep ERR, and one that fails returns the state it was given. -/
theorem coreStepCompletesOrFails : Obligations.CoreStepCompletesOrFails := by
  intro s op hp
  rw [coreStep_eq_stages hp]
  refine ⟨finish_pending _ _, finish_done _ _, ?_⟩
  rcases finish_cases op (performStages op.stages s) with ⟨-, hs⟩ | ⟨e, hfailed, hs⟩ <;> rw [hs]
  · exact .inl ⟨rfl, op.path.err_eq s⟩
  · refine .inr ⟨e, rfl, rfl, rfl, fun hop => ?_⟩
    rw [fst_performStages_of_failed hop hfailed]
    rfl

/-- Settles O9 by induction on the events left. -/
theorem pendingOperationIsPerformed : Obligations.PendingOperationIsPerformed := fun s =>
  ⟨step_of_inbox_nil, fun _ h => step_of_inbox_cons h, fun hb => coreStep_of_none ((busy_eq_false_iff s).1 hb),
    run_empties_inbox s.inbox s rfl⟩

/-- Settles O25: the branches of `State.accept`. -/
theorem commandAcceptance : Obligations.CommandAcceptance := by
  intro s cw
  refine ⟨fun hb hcw => congrArg _ (accept_of_busy hb hcw), ?_, fun hb hcw he => ?_, fun hb hcw he => ?_, ?_, ?_⟩
  · rintro rfl
    exact exec_wrCmd _ s
  · rw [exec_wrCmd_of_illegal hcw hb]
    exact congrArg _ (if_pos he)
  · rw [exec_wrCmd_of_illegal hcw hb]
    exact congrArg _ (if_neg he)
  · rintro hb rfl
    exact (exec_wrCmd _ s).trans (next_guardedWrite_of_not_busy hb)
  · rintro p hp hb rfl
    have hrequest : p.2.1.need = p.2.2 ∧ exec (.wrCmd p.1) s = .next (s.requestOperation p.2.1) := by
      fin_cases hp <;> exact ⟨rfl, (exec_wrCmd _ s).trans (next_guardedWrite_of_not_busy hb)⟩
    obtain ⟨hneed, hexec⟩ := hrequest
    rw [hexec, ← hneed]
    exact ⟨fun he => congrArg _ (requestOperation_of_error he),
      fun he hn => congrArg _ (requestOperation_of_wrong_phase he hn),
      fun hn => congrArg _ (requestOperation_of_need hn)⟩

/-- Settles O27: the third branch of `State.requestOperation`. -/
theorem operationsAreAccepted : Obligations.OperationsAreAccepted := by
  intro s hb p hp hphase
  have hrequest : p.2.1.need = p.2.2 ∧ exec p.1 s = .next (s.requestOperation p.2.1) := by
    fin_cases hp <;> exact ⟨rfl, next_guardedWrite_of_not_busy hb⟩
  obtain ⟨hneed, hexec⟩ := hrequest
  rw [hexec, requestOperation_of_need (hphase.trans hneed.symm)]

/-- Settles O28: the busy rule around no effect. -/
theorem nopChangesNothing : Obligations.NopChangesNothing :=
  ⟨rfl, fun _ => ⟨next_guardedWrite_of_not_busy, fun hb => next_guardedWrite_of_busy hb _⟩⟩

/-- Settles O29: CLEAR's word is the one it encodes to, and CLEAR is `State.clearRun` in every state. -/
theorem clearStartsNewRun : Obligations.ClearStartsNewRun := by
  refine ⟨fun cw => ?_, fun s => ⟨s.clearRun, rfl, rfl, rfl, Bool.and_false _⟩⟩
  rw [decode_cw, Except.ok.injEq, decodeCw_eq_clear_iff]

end Sys2Proof.Proofs
end

section
/-! The frequency table of 42_frequency.md: the stable sort keeps the order of what its key does not tell apart, what
`frequencyTable` lists, and in which order (R108, R109, R110). -/

namespace Sys2Proof.Machine

/-! ### Stability (00_scope.md R9) -/

section
variable {α : Type} {R : α → α → Prop} (key : α → Nat)

theorem orderedInsert_keeps_ties (a : α) (l : List α) (ha : ∀ y ∈ l, R a y)
    (h : l.Pairwise fun x y => key x = key y → R x y) :
    (l.orderedInsert (fun x y => key x ≤ key y) a).Pairwise fun x y => key x = key y → R x y := by
  induction l with
  | nil => exact List.pairwise_singleton _ a
  | cons b l ih =>
    obtain ⟨hb, hl⟩ := List.pairwise_cons.1 h
    obtain ⟨-, hal⟩ := List.forall_mem_cons.1 ha
    rw [List.orderedInsert_cons]
    split
    case isTrue => exact List.pairwise_cons.2 ⟨fun y hy _ => ha y hy, h⟩
    case isFalse hlt =>
      refine List.pairwise_cons.2 ⟨fun y hy htie => ?_, ih hal hl⟩
      rcases (List.mem_orderedInsert _).1 hy with rfl | hy
      · exact absurd htie.ge hlt
      · exact hb y hy htie

/-- The sort is stable: elements of equal key stay in the order they stood in. -/
theorem stableSortBy_keeps_ties {l : List α} (h : l.Pairwise R) :
    (stableSortBy key l).Pairwise fun x y => key x = key y → R x y := by
  induction l with
  | nil => exact List.Pairwise.nil
  | cons a l ih =>
    obtain ⟨ha, hl⟩ := List.pairwise_cons.1 h
    exact orderedInsert_keeps_ties key a _ (fun y hy => ha y ((stableSortBy_perm key l).subset hy)) (ih hl)

end

/-! ### What the table lists, and in which order (42_frequency.md R108, R109, R110) -/

section
variable {input : List Sym}

theorem frequencyTable_perm (input : List Sym) : (frequencyTable input).Perm (countPairs input) :=
  (stableSortBy_perm _ _).trans (stableSortBy_perm _ _)

theorem mem_frequencyTable {p : FreqEntry} :
    p ∈ frequencyTable input ↔ p.sym ∈ input ∧ p.freq = BitVec.ofNat 32 (input.count p.sym) := by
  rw [(frequencyTable_perm input).mem_iff, countPairs, List.mem_map]
  constructor
  · rintro ⟨x, hx, rfl⟩
    exact ⟨List.mem_dedup.1 hx, rfl⟩
  · rintro ⟨hx, hfreq⟩
    exact ⟨p.sym, List.mem_dedup.2 hx, by rw [← hfreq]⟩

/-- No two entries are of the same symbol, so the first sort puts the symbols in strictly rising order. -/
theorem symbolSort_strict (input : List Sym) :
    (stableSortBy (fun p => p.sym.toNat) (countPairs input)).Pairwise fun p q => p.sym.toNat < q.sym.toNat := by
  have hdistinct : (countPairs input).Pairwise fun p q => p.sym ≠ q.sym :=
    List.pairwise_map.2 (List.nodup_dedup input)
  have hsort := hdistinct.perm (stableSortBy_perm (fun p => p.sym.toNat) _).symm Ne.symm
  exact hsort.imp₂ (fun _ _ hne hle => lt_of_le_of_ne hle fun he => hne (BitVec.eq_of_toNat_eq he))
    (stableSortBy_sorted _ _)

/-- The (freq, sym) order: ascending by frequency, equal frequencies by symbol (42_frequency.md R109). -/
def FreqEntry.before (p q : FreqEntry) : Prop :=
  p.freq.toNat < q.freq.toNat ∨ (p.freq = q.freq ∧ p.sym.toNat < q.sym.toNat)

theorem frequencyTable_ordered (input : List Sym) : (frequencyTable input).Pairwise FreqEntry.before := by
  refine (stableSortBy_sorted _ _).imp₂ (fun p q hle htie => ?_)
    (stableSortBy_keeps_ties (fun p => p.freq.toNat) (symbolSort_strict input))
  rcases Nat.lt_or_eq_of_le hle with hlt | he
  · exact .inl hlt
  · exact .inr ⟨BitVec.eq_of_toNat_eq he, htie he⟩

/-- A count of an input that IN_LEN can number does not wrap. -/
theorem toNat_ofNat_count (h : input.length < 2 ^ 32) (x : Sym) :
    (BitVec.ofNat 32 (input.count x)).toNat = input.count x := by
  rw [BitVec.toNat_ofNat, Nat.mod_eq_of_lt (List.count_le_length.trans_lt h)]

/-- The frequencies sum to the length of the input (42_frequency.md R110). -/
theorem sum_frequencyTable (h : input.length < 2 ^ 32) :
    ((frequencyTable input).map fun p => p.freq.toNat).sum = input.length := by
  rw [((frequencyTable_perm input).map _).sum_eq, countPairs, List.map_map,
    ← List.sum_map_count_dedup_eq_length input]
  exact congrArg List.sum (List.map_congr_left fun x _ => toNat_ofNat_count h x)

end

/-! ### The core step of COUNT -/

section
variable {s : State}

theorem mem_table {p : FreqEntry} : p ∈ s.table ↔ ∃ i < s.nsym.toNat, Memory.read s.ftab i = p := by
  simp [State.table, Memory.firstEntries]

theorem pairwise_table {R : FreqEntry → FreqEntry → Prop} : s.table.Pairwise R ↔
    ∀ i j, i < j → j < s.nsym.toNat → R (Memory.read s.ftab i) (Memory.read s.ftab j) := by
  rw [State.table, List.pairwise_iff_getElem]
  simp only [Memory.getElem_firstEntries, Memory.length_firstEntries]
  exact ⟨fun h i j hij hj => h i j (hij.trans hj) hj hij, fun h i j _ hj hij => h i j hij hj⟩

theorem length_input_lt (s : State) : s.input.length < 2 ^ 32 := by
  rw [State.input, Memory.length_firstEntries]
  exact s.inLen.isLt

theorem coreStep_count (hphase : s.phase = .idle) (hle : s.input.dedup.length ≤ s.cfg.maxSyms) :
    (s.requestOperation .count).coreStep = { s with
      ftab := Memory.fill s.ftab 0 (frequencyTable s.input), nsym := BitVec.ofNat 32 s.input.dedup.length
      phase := .counted, done := true, pending := none } := by
  have hok : performCount s = .ok _ := if_neg (Nat.not_lt.2 hle)
  rw [coreStep_requestOperation hphase]
  simp only [Operation.stages, performStages, hok]
  rfl

end

end Sys2Proof.Machine

namespace Sys2Proof.Proofs

open Sys2Proof Sys2Proof.Machine

/-- Settles O38: the core step fills FTAB with `frequencyTable` of the input, and each clause is a fact about it. -/
theorem countMakesOrderedTable : Obligations.CountMakesOrderedTable := by
  intro s hb hphase hwf hcard
  rw [List.card_toFinset] at hcard
  have hlen : s.input.dedup.length < 2 ^ 32 := (List.dedup_sublist _).length_le.trans_lt (length_input_lt s)
  refine ⟨s.requestOperation .count, _, next_guardedWrite_of_not_busy hb, requestOperation_of_need hphase, rfl, ?_⟩
  have hcore := coreStep_count hphase hcard
  generalize (s.requestOperation .count).coreStep = t at hcore ⊢
  have hnsym : t.nsym.toNat = s.input.dedup.length := by
    rw [hcore]
    exact Nat.mod_eq_of_lt hlen
  have htable : t.table = frequencyTable s.input := by
    rw [hcore]
    exact Memory.firstEntries_fill_ofNat hwf (length_frequencyTable _).symm hlen
  have hentry (i : Nat) (hi : i < t.nsym.toNat) := mem_frequencyTable.1 (htable ▸ mem_table.2 ⟨i, hi, rfl⟩)
  refine ⟨by rw [hcore], by rw [hnsym, List.card_toFinset], fun i hi => ?_, fun x hx => ?_, ?_, ?_, fun k hk => ?_⟩
  · obtain ⟨hsym, hfreq⟩ := hentry i hi
    exact ⟨hsym, by rw [hfreq, toNat_ofNat_count (length_input_lt s)]⟩
  · have hmem : FreqEntry.mk x (BitVec.ofNat 32 (s.input.count x)) ∈ t.table :=
      htable ▸ mem_frequencyTable.2 ⟨hx, rfl⟩
    obtain ⟨i, hi, hread⟩ := mem_table.1 hmem
    exact ⟨i, hi, by rw [hread]⟩
  · exact pairwise_table.1 (htable ▸ frequencyTable_ordered s.input)
  · have hsum := sum_frequencyTable (length_input_lt s)
    rw [← htable, State.table, Memory.firstEntries, List.map_map] at hsum
    rwa [State.input, Memory.length_firstEntries] at hsum
  · rw [hcore]
    exact (Memory.read_fill hwf 0 _ k).trans (if_neg (by rw [length_frequencyTable]; omega))

end Sys2Proof.Proofs
end

section
/-! The tree builder of 43_tree_builder.md: selection and re-sort on a sorted working list (R113, R115, R119), the forest
the rounds end with, its parents and its sum of frequencies (R116, R120), and the failures of COUNT and BUILD. -/

namespace Sys2Proof.Machine

/-! ### The order of the working list (43_tree_builder.md R113, R115, R119) -/

section
variable {α : Type} {key : α → Nat}

theorem takeFirstMin_of_forall_le {x : α} {xs : List α} (h : ∀ y ∈ xs, key x ≤ key y) :
    takeFirstMin key (x :: xs) = some (x, xs) := by
  rw [takeFirstMin]
  cases hmin : takeFirstMin key xs with
  | none =>
    cases xs with
    | nil => rfl
    | cons y ys =>
      obtain ⟨m, rest, hsome⟩ := takeFirstMin_isSome key y ys
      rw [hsome] at hmin
      cases hmin
  | some p =>
    obtain ⟨m, rest⟩ := p
    have hmem : m ∈ xs := (takeFirstMin_spec key xs m rest hmin).1.subset List.mem_cons_self
    exact if_pos (h m hmem)

theorem orderedInsert_of_forall_le {x : α} {xs : List α} (h : ∀ y ∈ xs, key x ≤ key y) :
    xs.orderedInsert (fun a b => key a ≤ key b) x = x :: xs := by
  cases xs with
  | nil => rfl
  | cons y ys => exact List.orderedInsert_cons_of_le _ ys (h y List.mem_cons_self)

/-- The stable sort takes an element appended to a sorted list to its place after the last one of no larger key
(43_tree_builder.md R115). -/
theorem stableSortBy_append_singleton {xs : List α} (hsorted : xs.Pairwise fun a b => key a ≤ key b) (x : α) :
    stableSortBy key (xs ++ [x]) =
      xs.takeWhile (fun y => decide (key y ≤ key x)) ++ x :: xs.dropWhile (fun y => decide (key y ≤ key x)) := by
  induction xs with
  | nil => rfl
  | cons y ys ih =>
    obtain ⟨hy, hys⟩ := List.pairwise_cons.1 hsorted
    have hsort : stableSortBy key (y :: ys ++ [x]) =
        (stableSortBy key (ys ++ [x])).orderedInsert (fun a b => key a ≤ key b) y := rfl
    by_cases hle : key y ≤ key x
    · have hleast : ∀ z ∈ stableSortBy key (ys ++ [x]), key y ≤ key z := by
        intro z hz
        rcases List.mem_append.1 ((stableSortBy_perm key _).subset hz) with hz | hz
        · exact hy z hz
        · exact List.mem_singleton.1 hz ▸ hle
      rw [hsort, orderedInsert_of_forall_le hleast, ih hys]
      simp [hle]
    · have hhead (hl : 0 < ys.length) : ¬ decide (key ys[0] ≤ key x) = true := fun hzx =>
        hle ((hy _ (List.getElem_mem hl)).trans (of_decide_eq_true hzx))
      rw [hsort, ih hys, List.takeWhile_eq_nil_iff.2 hhead, List.dropWhile_eq_self_iff.2 hhead, List.nil_append,
        List.orderedInsert_of_not_le _ ys hle, orderedInsert_of_forall_le hy]
      simp [hle]

end

theorem selectPair_of_sorted {nodes : List Node} {a b : Nat} {rest : List Nat}
    (h : (a :: b :: rest).Pairwise fun x y => nodeKey nodes x ≤ nodeKey nodes y) :
    selectPair nodes (a :: b :: rest) = some ((a, b), rest) := by
  obtain ⟨ha, hrest⟩ := List.pairwise_cons.1 h
  obtain ⟨hb, -⟩ := List.pairwise_cons.1 hrest
  have horder : orderPair nodes a b = (a, b) := if_neg (Nat.not_lt.2 (ha b List.mem_cons_self))
  simp only [selectPair, takeFirstMin_of_forall_le ha, takeFirstMin_of_forall_le hb, horder]

theorem nodeKey_le_of_comesBefore {nodes : List Node} {x y : Nat} (h : comesBefore nodes x y) :
    nodeKey nodes x ≤ nodeKey nodes y := by
  rcases h with hlt | ⟨heq, -⟩
  · exact hlt.le
  · exact heq.le

theorem comesBefore_irrefl (nodes : List Node) (x : Nat) : ¬ comesBefore nodes x x := by
  rintro (hlt | ⟨-, hlt⟩)
  · exact Nat.lt_irrefl _ hlt
  · exact Nat.lt_irrefl _ hlt

/-! ### The end of the rounds (43_tree_builder.md R116) -/

/-- What every round keeps holds when one node is left in the working list. -/
theorem mergeLoop_ends {P : List Node → List Nat → Prop}
    (round : ∀ {nodes wl a b rest}, P nodes wl → selectPair nodes wl = some ((a, b), rest) →
      P (nodes ++ [mergeNode nodes a b])
        (stableSortBy (nodeKey (nodes ++ [mergeNode nodes a b])) (rest ++ [nodes.length])))
    {k : Nat} {nodes : List Node} {wl : List Nat} (hk : wl.length ≤ k) (hne : wl ≠ []) (h : P nodes wl) :
    ∃ root, P (mergeLoop k nodes wl) [root] := by
  induction k generalizing nodes wl with
  | zero => exact absurd (List.eq_nil_of_length_eq_zero (Nat.le_zero.1 hk)) hne
  | succ k ih =>
    cases hs : selectPair nodes wl with
    | none =>
      match wl, hne with
      | [root], _ => exact ⟨root, by simpa only [mergeLoop, hs] using h⟩
      | x :: y :: ys, _ =>
        obtain ⟨a, b, rest, hsome⟩ := selectPair_isSome nodes (x :: y :: ys) (by simp)
        rw [hsome] at hs
        cases hs
    | some p =>
      obtain ⟨⟨a, b⟩, rest⟩ := p
      have hlen : rest.length + 2 = wl.length := (selectPair_spec nodes wl a b rest hs).1.length_eq
      simp only [mergeLoop, hs]
      have hnext (key : Nat → Nat) : (stableSortBy key (rest ++ [nodes.length])).length = rest.length + 1 := by simp
      refine ih ?_ (List.ne_nil_of_length_pos ?_) (round h hs) <;> rw [hnext] <;> omega

/-- The sum of the frequencies of the nodes in the working list. -/
def workingFreq (nodes : List Node) (wl : List Nat) : Word := (wl.map fun v => (nodes.getD v default).freq).sum

theorem workingFreq_of_perm {nodes : List Node} {wl wl' : List Nat} (h : wl.Perm wl') :
    workingFreq nodes wl = workingFreq nodes wl' :=
  (h.map _).sum_eq

theorem workingFreq_leaves (freqs : List Word) :
    workingFreq (freqs.map .leaf) (List.range freqs.length) = freqs.sum := by
  refine congrArg List.sum (List.ext_getElem (by simp) fun i h _ => ?_)
  have hi : i < freqs.length := by simpa using h
  simp [hi, Node.freq]

/-- A round replaces two nodes by one of their summed frequency (43_tree_builder.md R114). -/
theorem Forest.workingFreq_round {nodes : List Node} {wl rest : List Nat} {a b : Nat} (hF : Forest nodes wl)
    (h : selectPair nodes wl = some ((a, b), rest)) :
    workingFreq (nodes ++ [mergeNode nodes a b])
      (stableSortBy (nodeKey (nodes ++ [mergeNode nodes a b])) (rest ++ [nodes.length])) = workingFreq nodes wl := by
  have hperm := (selectPair_spec nodes wl a b rest h).1
  have hrest : rest.map (fun v => ((nodes ++ [mergeNode nodes a b]).getD v default).freq) =
      rest.map fun v => (nodes.getD v default).freq := by
    refine List.map_congr_left fun v hv => ?_
    have hin := (hF.mem v).1 (hperm.subset (List.mem_cons_of_mem _ (List.mem_cons_of_mem _ hv)))
    rw [getD_append_left _ _ _ hin.1]
  have hnew : ((nodes ++ [mergeNode nodes a b]).getD nodes.length default).freq =
      (nodes.getD a default).freq + (nodes.getD b default).freq := by simp [mergeNode, Node.freq]
  rw [workingFreq_of_perm (stableSortBy_perm _ _), ← workingFreq_of_perm hperm]
  simp only [workingFreq, List.map_append, List.sum_append, List.map_cons, List.map_nil, List.sum_cons, List.sum_nil,
    hrest, hnew]
  ring

theorem Forest.root_eq {nodes : List Node} {root : Nat} (hF : Forest nodes [root]) : root = nodes.length - 1 := by
  have hlt : root < nodes.length := ((hF.mem root).1 (List.mem_singleton_self root)).1
  have hlast : inWorkingList nodes nodes.length (nodes.length - 1) := by
    refine ⟨by omega, fun u hu f l r hn => ?_⟩
    have := hF.older u f l r hn
    omega
  exact (List.mem_singleton.1 ((hF.mem _).2 hlast)).symm

/-- BUILD ends with a forest of one tree, whose root is the last node and holds the sum of all frequencies
(43_tree_builder.md R116, R120). -/
theorem buildNodes_ends {freqs : List Word} (hne : freqs ≠ []) :
    Forest (buildNodes freqs) [(buildNodes freqs).length - 1]
      ∧ ((buildNodes freqs).getD ((buildNodes freqs).length - 1) default).freq = freqs.sum := by
  obtain ⟨root, hF, hsum⟩ := mergeLoop_ends
    (P := fun nodes wl => Forest nodes wl ∧ workingFreq nodes wl = freqs.sum)
    (fun ⟨hF, hsum⟩ hs => ⟨(hF.round hs).2, (hF.workingFreq_round hs).trans hsum⟩)
    (k := freqs.length) (by simp) (by simpa using hne) ⟨Forest.leaves freqs, workingFreq_leaves freqs⟩
  rw [← buildNodes] at hF hsum
  obtain rfl := hF.root_eq
  exact ⟨hF, by simpa [workingFreq] using hsum⟩

/-! ### Parents (43_tree_builder.md R120) -/

/-- Is node `u` internal, with `v` as one of its children? -/
def isParent (nodes : List Node) (u v : Nat) : Prop :=
  ∃ f l r, nodes.getD u default = .internal f l r ∧ (l = v ∨ r = v)

theorem inWorkingList_iff {nodes : List Node} {v x : Nat} :
    inWorkingList nodes v x ↔ x < v ∧ ∀ u < v, ¬ isParent nodes u x := by
  refine and_congr_right fun _ => forall₂_congr fun u _ => ?_
  constructor
  · rintro h ⟨f, l, r, hn, rfl | rfl⟩
    · exact (h f _ _ hn).1 rfl
    · exact (h f _ _ hn).2 rfl
  · intro h f l r hn
    exact ⟨fun he => h ⟨f, l, r, hn, .inl he.symm⟩, fun he => h ⟨f, l, r, hn, .inr he.symm⟩⟩

/-- A child stood in the working list its parent was made from. -/
theorem inWorkingList_of_isParent {freqs : List Word} (hne : freqs ≠ []) {u v : Nat}
    (hu : u < (buildNodes freqs).length) (h : isParent (buildNodes freqs) u v) : inWorkingList (buildNodes freqs) u v := by
  obtain ⟨f, l, r, hn, hchild⟩ := h
  have hge : freqs.length ≤ u := by
    by_contra hlt
    rw [buildNodes_leaf hne (Nat.lt_of_not_le hlt)] at hn
    cases hn
  obtain ⟨l', r', hmade, hl, hr, -, -⟩ := buildNodes_merges freqs u hge hu
  obtain ⟨-, rfl, rfl⟩ := Node.internal.inj (hmade.symm.trans hn)
  rcases hchild with rfl | rfl
  · exact hl
  · exact hr

/-- Every node but the last has exactly one parent: at the end only the root has none, and the older of two parents would
have taken the node out of the working list of the younger. -/
theorem buildNodes_existsUnique_parent {freqs : List Word} (hne : freqs ≠ []) {v : Nat}
    (hv : v + 1 < (buildNodes freqs).length) :
    ∃! u, u < (buildNodes freqs).length ∧ isParent (buildNodes freqs) u v := by
  have hsome : ∃ u < (buildNodes freqs).length, isParent (buildNodes freqs) u v := by
    by_contra hnone
    push Not at hnone
    have hmem := ((buildNodes_ends hne).1.mem v).2 (inWorkingList_iff.2 ⟨by omega, hnone⟩)
    have := List.mem_singleton.1 hmem
    omega
  have notBoth {u w : Nat} (huw : u < w) (hw : w < (buildNodes freqs).length)
      (hwv : isParent (buildNodes freqs) w v) : ¬ isParent (buildNodes freqs) u v :=
    (inWorkingList_iff.1 (inWorkingList_of_isParent hne hw hwv)).2 u huw
  obtain ⟨u, hu, huv⟩ := hsome
  refine ⟨u, ⟨hu, huv⟩, fun w ⟨hw, hwv⟩ => ?_⟩
  rcases Nat.lt_trichotomy w u with hlt | heq | hgt
  · exact absurd hwv (notBoth hlt hu huv)
  · exact heq
  · exact absurd huv (notBoth hgt hw hwv)

/-! ### The core step of BUILD, and of an operation that fails -/

section
variable {s : State}

theorem coreStep_build (hphase : s.phase = .counted) (hne : s.nsym ≠ 0) {nodes : List Node}
    (hnodes : nodes = buildNodes (s.table.map FreqEntry.freq)) :
    (s.requestOperation .build).coreStep = { s with
      node := Memory.fill s.node 0 nodes, nodeCount := BitVec.ofNat 32 nodes.length
      rootFreq := (nodes.getD (nodes.length - 1) default).freq
      phase := .built, done := true, pending := none } := by
  subst hnodes
  have hok : performBuild s = .ok _ := if_neg hne
  rw [coreStep_requestOperation hphase]
  simp only [Operation.stages, performStages, hok]
  rfl

/-- An operation of one stage that fails enters the error state from the state it found (41_commands.md R103). -/
theorem coreStep_of_error {op : Operation} {perform : State → Except Err State} {e : Err} (hp : s.pending = some op)
    (hstages : op.stages = [(perform, op.next)]) (hfail : perform s = .error e) :
    s.coreStep = { s with pending := none }.enterError e := by
  rw [coreStep_eq_stages hp, hstages]
  simp only [performStages, hfail]
  rfl

end

end Sys2Proof.Machine

namespace Sys2Proof.Proofs

open Sys2Proof Sys2Proof.Machine

/-- Settles O39: the first of a sorted list is its first minimum, twice, and what is left is sorted too. -/
theorem sortedMergeSelectsFirstTwo : Obligations.SortedMergeSelectsFirstTwo := by
  intro nodes a b rest hsorted
  exact ⟨selectPair_of_sorted hsorted, stableSortBy_append_singleton hsorted.of_cons.of_cons⟩

/-- Settles O41: the guards of COUNT and BUILD. -/
theorem countAndBuildFailures : Obligations.CountAndBuildFailures := by
  refine fun s => ⟨fun hp hcard => ?_, fun hp hempty => ?_⟩
  · rw [List.card_toFinset] at hcard
    exact coreStep_of_error hp rfl (if_pos hcard)
  · exact coreStep_of_error hp rfl (if_pos hempty)

/-- Settles O40: the core step fills NODE with `buildNodes` of the table, and each clause is a fact about it. -/
theorem buildMakesStrictBinaryTree : Obligations.BuildMakesStrictBinaryTree := by
  intro s hb hphase hwf hpos hmax
  refine ⟨s.requestOperation .build, _, next_guardedWrite_of_not_busy hb, requestOperation_of_need hphase, rfl, ?_⟩
  obtain ⟨freqs, hfreqs⟩ : ∃ freqs, freqs = s.table.map FreqEntry.freq := ⟨_, rfl⟩
  have hlen : freqs.length = s.nsym.toNat := by simp [hfreqs]
  have hne : freqs ≠ [] := List.ne_nil_of_length_pos (hlen ▸ hpos)
  have hcount : (buildNodes freqs).length = 2 * s.nsym.toNat - 1 := hlen ▸ length_buildNodes freqs hne
  have hcore := coreStep_build hphase (fun h => by simp [h] at hpos) (congrArg buildNodes hfreqs)
  generalize (s.requestOperation .build).coreStep = t at hcore ⊢
  have htcount : t.nodeCount.toNat = (buildNodes freqs).length := by
    rw [hcore]
    exact Nat.mod_eq_of_lt (by omega)
  have hnodes : t.nodes = buildNodes freqs := by
    rw [hcore]
    exact Memory.firstEntries_fill_ofNat hwf rfl (by omega)
  have hread {v : Nat} (hv : v < (buildNodes freqs).length) :
      Memory.read t.node v = (buildNodes freqs).getD v default := by
    rw [← hnodes]
    exact (Memory.getD_firstEntries (htcount ▸ hv) _).symm
  have hroot : t.rootFreq = ((buildNodes freqs).getD ((buildNodes freqs).length - 1) default).freq := by rw [hcore]
  rw [htcount, ← hfreqs, hnodes]
  refine ⟨by rw [hcore], hcount, fun v hv => ?_, fun v hv hlt => ?_, fun v hv => ?_, ?_, ?_, fun k hk => ?_⟩
  · rw [hread (by omega), buildNodes_leaf hne (hlen.symm ▸ hv)]
    simp [hfreqs, State.table]
  · obtain ⟨l, r, hmade, hmerge⟩ := buildNodes_merges freqs v (hlen ▸ hv) hlt
    obtain ⟨⟨hl, -⟩, ⟨hr, -⟩, hbefore, -⟩ := id hmerge
    have hdiff : l ≠ r := fun he => comesBefore_irrefl _ r (he ▸ hbefore)
    refine ⟨l, r, hl, hr, hdiff, ?_⟩
    rw [hread hlt, hread (hl.trans hlt), hread (hr.trans hlt)]
    exact ⟨hmade, nodeKey_le_of_comesBefore hbefore, hmerge⟩
  · refine (existsUnique_congr fun u => and_congr_right fun hu => ?_).1 (buildNodes_existsUnique_parent hne hv)
    rw [hread hu, isParent]
  · rw [hroot, hread (by omega)]
  · rw [hroot, (buildNodes_ends hne).2]
  · rw [hcore]
    exact (Memory.read_fill hwf 0 _ k).trans (if_neg (by omega))

end Sys2Proof.Proofs
end

section
/-! The encoding table of 44_encoding_table.md: the traversal records root paths (R121, R122), every leaf of a tree BUILD
made has exactly one (43_tree_builder.md R120), and the laws of these paths as codes (R124, R125). -/

namespace Sys2Proof.Machine

/-! ### Walks along edge labels (43_tree_builder.md R114) -/

section
variable {nodes : List Node}

theorem walkTree_append (nodes : List Node) (v : Nat) (p q : Bits) :
    walkTree nodes v (p ++ q) = (walkTree nodes v p).bind fun u => walkTree nodes u q := by
  induction p generalizing v with
  | nil => rfl
  | cons b p ih =>
    simp only [List.cons_append, walkTree]
    split
    · rfl
    · exact ih _

theorem walkTree_cons_of_internal {v l r : Nat} {f : Word} (hv : nodes.getD v default = .internal f l r) (b : Bool)
    (q : Bits) : walkTree nodes v (b :: q) = walkTree nodes (if b then r else l) q := by
  rw [walkTree, hv]

/-- No edge leaves a leaf. -/
theorem walkTree_leaf_eq_some_iff {v i : Nat} {f : Word} (hv : nodes.getD v default = .leaf f) {q : Bits} :
    walkTree nodes v q = some i ↔ q = [] ∧ v = i := by
  cases q with
  | nil => simp [walkTree]
  | cons b q => rw [walkTree, hv]; simp

theorem walkTree_singleton_eq_some_iff {u v : Nat} {b : Bool} : walkTree nodes u [b] = some v ↔
    ∃ f l r, nodes.getD u default = .internal f l r ∧ (if b then r else l) = v := by
  cases hu : nodes.getD u default with
  | leaf f => simp [walkTree_leaf_eq_some_iff hu]
  | internal f l r => rw [walkTree_cons_of_internal hu]; simp [walkTree]

theorem walkTree_concat_eq_some_iff {v x : Nat} {p : Bits} {b : Bool} : walkTree nodes v (p ++ [b]) = some x ↔
    ∃ u, walkTree nodes v p = some u ∧ walkTree nodes u [b] = some x := by
  rw [walkTree_append, Option.bind_eq_some_iff]

theorem isParent_iff_exists_edge {u v : Nat} : isParent nodes u v ↔ ∃ b, walkTree nodes u [b] = some v := by
  simp only [walkTree_singleton_eq_some_iff, isParent, Bool.exists_bool]
  constructor
  · rintro ⟨f, l, r, hu, hl | hr⟩
    · exact .inl ⟨f, l, r, hu, hl⟩
    · exact .inr ⟨f, l, r, hu, hr⟩
  · rintro (⟨f, l, r, hu, hl⟩ | ⟨f, l, r, hu, hr⟩)
    · exact ⟨f, l, r, hu, .inl hl⟩
    · exact ⟨f, l, r, hu, .inr hr⟩

theorem visit_of_leaf {k v : Nat} {f : Word} (hv : nodes.getD v default = .leaf f) (p : Bits) :
    visit nodes (k + 1) v p = [(v, p)] := by
  rw [visit, hv]

theorem visit_of_internal {k v l r : Nat} {f : Word} (hv : nodes.getD v default = .internal f l r) (p : Bits) :
    visit nodes (k + 1) v p = visit nodes k l (p ++ [false]) ++ visit nodes k r (p ++ [true]) := by
  rw [visit, hv]

end

/-! ### The traversal finds the walks to the leaves (44_encoding_table.md R122) -/

section
variable {nodes : List Node} (older : ∀ u f l r, nodes.getD u default = .internal f l r → l < u ∧ r < u)
include older

/-- Every edge leads to an older node. -/
theorem add_length_le_of_walkTree {v i : Nat} {q : Bits} (h : walkTree nodes v q = some i) : i + q.length ≤ v := by
  induction q generalizing v with
  | nil => exact (Option.some.inj h).ge
  | cons b q ih =>
    cases hv : nodes.getD v default with
    | leaf f => cases ((walkTree_leaf_eq_some_iff hv).1 h).1
    | internal f l r =>
      obtain ⟨hl, hr⟩ := older v f l r hv
      rw [walkTree_cons_of_internal hv] at h
      have hi := ih h
      rw [List.length_cons]
      split at hi <;> omega

theorem mem_visit_iff {k v i : Nat} (hk : v < k) {p c : Bits} : (i, c) ∈ visit nodes k v p ↔
    ∃ q, c = p ++ q ∧ walkTree nodes v q = some i ∧ ∃ f, nodes.getD i default = .leaf f := by
  induction k generalizing v p with
  | zero => omega
  | succ k ih =>
    cases hv : nodes.getD v default with
    | leaf f =>
      simp only [visit_of_leaf hv, List.mem_singleton, Prod.mk.injEq, walkTree_leaf_eq_some_iff hv]
      constructor
      · rintro ⟨rfl, rfl⟩
        exact ⟨[], (List.append_nil _).symm, ⟨rfl, rfl⟩, f, hv⟩
      · rintro ⟨_, rfl, ⟨rfl, rfl⟩, -⟩
        exact ⟨rfl, List.append_nil p⟩
    | internal f l r =>
      obtain ⟨hl, hr⟩ := older v f l r hv
      have hcons := walkTree_cons_of_internal hv
      simp only [visit_of_internal hv, List.mem_append, ih (show l < k by omega), ih (show r < k by omega),
        List.append_assoc]
      constructor
      · rintro (⟨q, rfl, hq, hleaf⟩ | ⟨q, rfl, hq, hleaf⟩)
        · exact ⟨false :: q, rfl, (hcons false q).trans hq, hleaf⟩
        · exact ⟨true :: q, rfl, (hcons true q).trans hq, hleaf⟩
      · rintro ⟨_ | ⟨_ | _, q⟩, rfl, hq, hleaf⟩
        · obtain rfl := Option.some.inj hq
          obtain ⟨f', hleaf⟩ := hleaf
          rw [hv] at hleaf
          cases hleaf
        · exact .inl ⟨q, rfl, (hcons false q).symm.trans hq, hleaf⟩
        · exact .inr ⟨q, rfl, (hcons true q).symm.trans hq, hleaf⟩

/-- The codes below the two children of a node differ in the label of the edge to the child. -/
theorem nodup_visit {k v : Nat} (hk : v < k) (p : Bits) : (visit nodes k v p).Nodup := by
  induction k generalizing v p with
  | zero => omega
  | succ k ih =>
    cases hv : nodes.getD v default with
    | leaf f => rw [visit_of_leaf hv]; exact List.nodup_singleton _
    | internal f l r =>
      obtain ⟨hl, hr⟩ := older v f l r hv
      rw [visit_of_internal hv]
      refine List.nodup_append'.2 ⟨ih (by omega) _, ih (by omega) _, fun ⟨i, c⟩ hcl hcr => ?_⟩
      obtain ⟨q, rfl, -⟩ := (mem_visit_iff older (by omega)).1 hcl
      obtain ⟨q', hc, -⟩ := (mem_visit_iff older (by omega)).1 hcr
      simp at hc

/-- The codes below a node fill its share of the code space (44_encoding_table.md R125). -/
theorem sum_visit {k v m : Nat} (hk : v < k) {p : Bits} (hm : ∀ e ∈ visit nodes k v p, e.2.length ≤ m) :
    ((visit nodes k v p).map fun e => 2 ^ (m - e.2.length)).sum = 2 ^ (m - p.length) := by
  induction k generalizing v p with
  | zero => omega
  | succ k ih =>
    cases hv : nodes.getD v default with
    | leaf f => simp [visit_of_leaf hv]
    | internal f l r =>
      obtain ⟨hl, hr⟩ := older v f l r hv
      rw [visit_of_internal hv] at hm ⊢
      obtain ⟨hml, hmr⟩ := List.forall_mem_append.1 hm
      obtain ⟨i, -, c, -, hmem, -⟩ := exists_leaf_mem_visit older (show l < k by omega) (p ++ [false])
      have hroom : p.length + 1 ≤ m := by simpa using (length_of_mem_visit hmem).1.trans (hml _ hmem)
      have hhalves : 2 ^ (m - (p.length + 1)) + 2 ^ (m - (p.length + 1)) = 2 ^ (m - p.length) := by
        rw [← two_mul, ← pow_succ']
        congr 1
        omega
      rw [List.map_append, List.sum_append, ih (by omega) hml, ih (by omega) hmr]
      simpa using hhalves

end

/-! ### Root paths in a tree BUILD made (43_tree_builder.md R120) -/

/-- The node reached along edge labels from the root of the tree BUILD makes from the frequencies. -/
def treeWalk (freqs : List Word) (c : Bits) : Option Nat :=
  walkTree (buildNodes freqs) ((buildNodes freqs).length - 1) c

section
variable {freqs : List Word} (hne : freqs ≠ [])
include hne

theorem length_buildNodes_pos : 0 < (buildNodes freqs).length := by
  have := List.length_pos_iff.2 hne
  rw [length_buildNodes freqs hne]
  omega

/-- An internal node was made by a round, after the leaves (43_tree_builder.md R111, R112). -/
theorem buildNodes_internal {u l r : Nat} {f : Word} (h : (buildNodes freqs).getD u default = .internal f l r) :
    freqs.length ≤ u ∧ mergesFirstTwo (buildNodes freqs) u l r := by
  have hge : freqs.length ≤ u := by
    by_contra hlt
    rw [buildNodes_leaf hne (Nat.lt_of_not_le hlt)] at h
    cases h
  have hu : u < (buildNodes freqs).length := by
    by_contra hout
    rw [List.getD_eq_default _ _ (Nat.le_of_not_lt hout)] at h
    cases h
  obtain ⟨l', r', hmade, hmerge⟩ := buildNodes_merges freqs u hge hu
  obtain ⟨-, rfl, rfl⟩ := Node.internal.inj (hmade.symm.trans h)
  exact ⟨hge, hmerge⟩

theorem buildNodes_isLeaf_iff {i : Nat} (hi : i < (buildNodes freqs).length) :
    (∃ f, (buildNodes freqs).getD i default = .leaf f) ↔ i < freqs.length := by
  refine ⟨fun ⟨f, hf⟩ => ?_, fun h => ⟨_, buildNodes_leaf hne h⟩⟩
  by_contra hge
  obtain ⟨f', l, r, hmade, -⟩ := buildNodes_made (Nat.le_of_not_lt hge) hi
  rw [hmade] at hf
  cases hf

/-- The two edges of a node lead to different nodes. -/
theorem buildNodes_edge_inj {u v : Nat} {b b' : Bool} (h : walkTree (buildNodes freqs) u [b] = some v)
    (h' : walkTree (buildNodes freqs) u [b'] = some v) : b = b' := by
  obtain ⟨f, l, r, hu, hb⟩ := walkTree_singleton_eq_some_iff.1 h
  obtain ⟨f', l', r', hu', hb'⟩ := walkTree_singleton_eq_some_iff.1 h'
  obtain ⟨-, rfl, rfl⟩ := Node.internal.inj (hu.symm.trans hu')
  obtain ⟨-, -, -, hbefore, -⟩ := buildNodes_internal hne hu
  have hdiff : l ≠ r := fun he => comesBefore_irrefl _ r (he ▸ hbefore)
  cases b <;> cases b'
  · rfl
  · exact absurd (hb.trans hb'.symm) hdiff
  · exact absurd (hb'.trans hb.symm) hdiff
  · rfl

/-- A walk passes internal nodes, each older than the one before, and none of them is among the leaves. -/
theorem length_le_of_walkTree {v i : Nat} {q : Bits} (h : walkTree (buildNodes freqs) v q = some i) :
    q.length ≤ v + 1 - freqs.length := by
  induction q generalizing v with
  | nil => exact Nat.zero_le _
  | cons b q ih =>
    cases hv : (buildNodes freqs).getD v default with
    | leaf f => cases ((walkTree_leaf_eq_some_iff hv).1 h).1
    | internal f l r =>
      obtain ⟨hge, ⟨hl, -⟩, ⟨hr, -⟩, -⟩ := buildNodes_internal hne hv
      rw [walkTree_cons_of_internal hv] at h
      have hq := ih h
      rw [List.length_cons]
      split at hq <;> omega

theorem add_length_le_of_treeWalk {c : Bits} {v : Nat} (h : treeWalk freqs c = some v) :
    v + c.length ≤ (buildNodes freqs).length - 1 :=
  add_length_le_of_walkTree (buildNodes_older hne) h

/-- Every node has a path from the root: its parent's and one edge more. -/
theorem exists_treeWalk {v : Nat} (hv : v < (buildNodes freqs).length) : ∃ c, treeWalk freqs c = some v := by
  by_cases hroot : v = (buildNodes freqs).length - 1
  · exact ⟨[], congrArg some hroot.symm⟩
  · obtain ⟨u, ⟨hu, huv⟩, -⟩ := buildNodes_existsUnique_parent hne (show v + 1 < _ by omega)
    have hlt := (inWorkingList_of_isParent hne hu huv).1
    obtain ⟨c, hc⟩ := exists_treeWalk hu
    obtain ⟨b, hb⟩ := isParent_iff_exists_edge.1 huv
    exact ⟨c ++ [b], walkTree_concat_eq_some_iff.2 ⟨u, hc, hb⟩⟩
termination_by (buildNodes freqs).length - v

/-- No node has two paths from the root: the last edges of both come from its one parent. -/
theorem treeWalk_inj {c c' : Bits} {v : Nat} (h : treeWalk freqs c = some v) (h' : treeWalk freqs c' = some v) :
    c = c' := by
  have hpos := length_buildNodes_pos hne
  have hroot {d : Bits} (hd : treeWalk freqs d = treeWalk freqs []) : d = [] := by
    have := add_length_le_of_treeWalk hne (hd.trans rfl)
    exact List.eq_nil_of_length_eq_zero (by omega)
  induction c using List.reverseRecOn generalizing c' v with
  | nil => exact (hroot (h'.trans h.symm)).symm
  | append_singleton c b ih =>
    obtain ⟨u, hu, hb⟩ := walkTree_concat_eq_some_iff.1 h
    rcases List.eq_nil_or_concat' c' with rfl | ⟨c', b', rfl⟩
    · exact hroot (h.trans h'.symm)
    · obtain ⟨u', hu', hb'⟩ := walkTree_concat_eq_some_iff.1 h'
      have hv := add_length_le_of_treeWalk hne h
      rw [List.length_append, List.length_singleton] at hv
      have parent {w : Nat} {d : Bits} {e : Bool} (hw : treeWalk freqs d = some w)
          (he : walkTree (buildNodes freqs) w [e] = some v) :
          w < (buildNodes freqs).length ∧ isParent (buildNodes freqs) w v := by
        have := add_length_le_of_treeWalk hne hw
        exact ⟨by omega, isParent_iff_exists_edge.2 ⟨e, he⟩⟩
      obtain rfl : u = u' := (buildNodes_existsUnique_parent hne (v := v) (by omega)).unique (parent hu hb) (parent hu' hb')
      rw [ih hu hu', buildNodes_edge_inj hne hb hb']

end

/-! ### The codes of a tree BUILD made (44_encoding_table.md R121 to R125) -/

/-- The code GENTAB finds for leaf `i` of the tree BUILD makes from the frequencies. -/
def treeCode (freqs : List Word) (i : Nat) : Bits := codeOf (leafCodes (buildNodes freqs)) i

/-- The code of a single-leaf tree (44_encoding_table.md R123). -/
theorem treeCode_of_length_eq_one {freqs : List Word} (h : freqs.length = 1) : treeCode freqs 0 = [false] := by
  obtain ⟨f, rfl⟩ := List.length_eq_one_iff.1 h
  rfl

section
variable {freqs : List Word} (htwo : 2 ≤ freqs.length)
include htwo

theorem leafCodes_buildNodes : leafCodes (buildNodes freqs) =
    visit (buildNodes freqs) (buildNodes freqs).length ((buildNodes freqs).length - 1) [] := by
  have hlen := length_buildNodes freqs (List.ne_nil_of_length_pos (by omega))
  obtain ⟨f, l, r, hroot, -⟩ := buildNodes_made (freqs := freqs) (v := (buildNodes freqs).length - 1) (by omega) (by omega)
  rw [leafCodes, hroot]

theorem mem_leafCodes_buildNodes_iff {i : Nat} {c : Bits} :
    (i, c) ∈ leafCodes (buildNodes freqs) ↔ i < freqs.length ∧ treeWalk freqs c = some i := by
  have hne : freqs ≠ [] := List.ne_nil_of_length_pos (by omega)
  have hpos := length_buildNodes_pos hne
  rw [leafCodes_buildNodes htwo, mem_visit_iff (buildNodes_older hne) (by omega), and_comm]
  simp only [List.nil_append, exists_eq_left']
  refine and_congr_right fun hc => buildNodes_isLeaf_iff hne ?_
  have := add_length_le_of_treeWalk hne hc
  omega

/-- The code of a leaf is its path from the root (44_encoding_table.md R122). -/
theorem treeWalk_treeCode {i : Nat} (hi : i < freqs.length) : treeWalk freqs (treeCode freqs i) = some i := by
  have hne : freqs ≠ [] := List.ne_nil_of_length_pos (by omega)
  have hlen := length_buildNodes freqs hne
  obtain ⟨c, hc⟩ := exists_treeWalk hne (show i < (buildNodes freqs).length by omega)
  rcases codeOf_cases (leafCodes (buildNodes freqs)) i with hmem | ⟨hnone, -⟩
  · exact ((mem_leafCodes_buildNodes_iff htwo).1 hmem).2
  · exact absurd ((mem_leafCodes_buildNodes_iff htwo).2 ⟨hi, hc⟩) (hnone c)

/-- The traversal finds each leaf once. -/
theorem leafCodes_buildNodes_perm :
    (leafCodes (buildNodes freqs)).Perm ((List.range freqs.length).map fun i => (i, treeCode freqs i)) := by
  have hne : freqs ≠ [] := List.ne_nil_of_length_pos (by omega)
  have hpos := length_buildNodes_pos hne
  have hfound : (leafCodes (buildNodes freqs)).Nodup := by
    rw [leafCodes_buildNodes htwo]
    exact nodup_visit (buildNodes_older hne) (by omega) _
  have hlisted : ((List.range freqs.length).map fun i => (i, treeCode freqs i)).Nodup :=
    List.nodup_range.map fun _ _ he => congrArg Prod.fst he
  refine (List.perm_ext_iff_of_nodup hfound hlisted).2 fun ⟨i, c⟩ => ?_
  rw [mem_leafCodes_buildNodes_iff htwo, List.mem_map]
  constructor
  · rintro ⟨hi, hc⟩
    exact ⟨i, List.mem_range.2 hi, by rw [treeWalk_inj hne hc (treeWalk_treeCode htwo hi)]⟩
  · rintro ⟨j, hj, he⟩
    obtain ⟨rfl, rfl⟩ := Prod.mk.inj he
    exact ⟨List.mem_range.1 hj, treeWalk_treeCode htwo (List.mem_range.1 hj)⟩

/-- The tree is full (44_encoding_table.md R125). -/
theorem sum_treeCode {m : Nat} (hm : ∀ i < freqs.length, (treeCode freqs i).length ≤ m) :
    ((List.range freqs.length).map fun i => 2 ^ (m - (treeCode freqs i).length)).sum = 2 ^ m := by
  have hne : freqs ≠ [] := List.ne_nil_of_length_pos (by omega)
  have hpos := length_buildNodes_pos hne
  have hperm := leafCodes_buildNodes_perm htwo
  have hshort : ∀ e ∈ leafCodes (buildNodes freqs), e.2.length ≤ m := by
    intro e he
    obtain ⟨i, hi, rfl⟩ := List.mem_map.1 (hperm.subset he)
    exact hm i (List.mem_range.1 hi)
  have hfull := (hperm.map fun e => 2 ^ (m - e.2.length)).sum_eq
  rw [List.map_map] at hfull
  refine hfull.symm.trans ?_
  rw [leafCodes_buildNodes htwo] at hshort ⊢
  exact sum_visit (buildNodes_older hne) (by omega) hshort

end

section
variable {freqs : List Word}

/-- A path that goes on from a leaf ends there (44_encoding_table.md R125). -/
theorem not_isPrefix_treeCode {i j : Nat} (hi : i < freqs.length) (hj : j < freqs.length) (hij : i ≠ j) :
    ¬ treeCode freqs i <+: treeCode freqs j := by
  rintro ⟨q, hq⟩
  have htwo : 2 ≤ freqs.length := by omega
  have hwalk := treeWalk_treeCode htwo hj
  rw [← hq, treeWalk, walkTree_append, ← treeWalk, treeWalk_treeCode htwo hi] at hwalk
  have hleaf := buildNodes_leaf (List.ne_nil_of_length_pos (by omega)) hi
  exact hij ((walkTree_leaf_eq_some_iff hleaf).1 hwalk).2

/-- Code lengths (44_encoding_table.md R124). -/
theorem length_treeCode {i : Nat} (hi : i < freqs.length) :
    1 ≤ (treeCode freqs i).length ∧ (treeCode freqs i).length ≤ max 1 (freqs.length - 1) := by
  by_cases hone : freqs.length = 1
  · obtain rfl : i = 0 := by omega
    rw [treeCode_of_length_eq_one hone]
    simp
  · have hne : freqs ≠ [] := List.ne_nil_of_length_pos (by omega)
    have hlen := length_buildNodes freqs hne
    have hwalk := treeWalk_treeCode (by omega) hi
    have hle := length_le_of_walkTree hne hwalk
    refine ⟨List.length_pos_iff.2 fun hnil => ?_, by omega⟩
    have hroot : (buildNodes freqs).length - 1 = i := by
      rw [hnil] at hwalk
      exact Option.some.inj hwalk
    omega

end

/-! ### CODE_MAXLEN (10_state.md R47) -/

theorem exists_length_eq_maxCodeLength {codes : List Bits} (hne : codes ≠ []) :
    ∃ c ∈ codes, c.length = maxCodeLength codes := by
  by_contra hnone
  push Not at hnone
  have hlt (c : Bits) (hc : c ∈ codes) : c.length < maxCodeLength codes :=
    lt_of_le_of_ne (length_le_maxCodeLength hc) (hnone c hc)
  have hpos := hlt _ (List.head_mem hne)
  have hle := (maxCodeLength_le_iff codes (maxCodeLength codes - 1)).2 fun c hc => Nat.le_sub_one_of_lt (hlt c hc)
  omega

/-! ### A valid CTAB holds the codes of the tree (44_encoding_table.md R121) -/

/-- The frequencies of FTAB, which BUILD makes its tree from (43_tree_builder.md R111). -/
def State.freqs (s : State) : List Word := s.table.map FreqEntry.freq

@[simp] theorem length_freqs (s : State) : s.freqs.length = s.nsym.toNat := by simp [State.freqs]

/-- NODE holds the tree of FTAB's frequencies, and CTAB and CODE_MAXLEN its codes and their largest length. -/
structure State.Coded (s : State) : Prop where
  nonempty : s.nsym.toNat ≠ 0
  nodes : s.nodes = buildNodes s.freqs
  read : ∀ i < s.nsym.toNat, Memory.read s.ctab i = treeCode s.freqs i
  codeMaxlen : s.codeMaxlen.toNat = maxCodeLength s.codes

section
variable {s : State}

theorem mem_codes {c : Bits} : c ∈ s.codes ↔ ∃ i < s.nsym.toNat, Memory.read s.ctab i = c := by
  simp [State.codes, Memory.firstEntries]

theorem results_of_codeMaxlen_ne_zero (h : s.resultsConsistent = true) (hc : s.codeMaxlen ≠ 0) :
    s.countDone = true ∧ s.buildDone = true ∧ s.gentabDone = true := by
  simp only [State.resultsConsistent, Bool.and_eq_true, Bool.or_eq_true, beq_iff_eq, bne_iff_ne] at h
  obtain ⟨⟨⟨-, hbuild⟩, hgentab⟩, -⟩ := h
  obtain ⟨hnodes, hcodes⟩ := hgentab.resolve_left hc
  obtain ⟨hcount, hbuilt⟩ := hbuild.resolve_left hnodes
  exact ⟨hcount, hbuilt, hcodes⟩

theorem State.Sound.coded (h : s.Sound) (hc : s.codeMaxlen ≠ 0) : s.Coded := by
  obtain ⟨-, hbuilt, hcodes⟩ := results_of_codeMaxlen_ne_zero h.results hc
  obtain ⟨hnsym, hnodes, -⟩ := (buildDone_iff s).1 hbuilt
  simp only [State.gentabDone, Bool.and_eq_true, beq_iff_eq] at hcodes
  obtain ⟨htable, hmax⟩ := hcodes
  have hread (i : Nat) (hi : i < s.nsym.toNat) : Memory.read s.ctab i = treeCode s.freqs i := by
    have hentry := congrArg (fun codes => codes.getD i []) htable
    simpa [State.codes, codeTable, hi, hnodes, State.freqs, treeCode] using hentry
  refine ⟨toNat_ne_zero hnsym, hnodes, hread, ?_⟩
  have hle : maxCodeLength s.codes ≤ max 1 (s.nsym.toNat - 1) := by
    refine (maxCodeLength_le_iff _ _).2 fun c hmem => ?_
    obtain ⟨i, hi, rfl⟩ := mem_codes.1 hmem
    rw [hread i hi, ← length_freqs]
    exact (length_treeCode (length_freqs s ▸ hi)).2
  rw [hmax, BitVec.toNat_ofNat, Nat.mod_eq_of_lt (by omega)]

section
variable (h : s.Coded)
include h

theorem State.Coded.length_le {i : Nat} (hi : i < s.nsym.toNat) :
    (Memory.read s.ctab i).length ≤ s.codeMaxlen.toNat := by
  rw [h.codeMaxlen]
  exact length_le_maxCodeLength (mem_codes.2 ⟨i, hi, rfl⟩)

theorem State.Coded.exists_length_eq :
    ∃ i < s.nsym.toNat, (Memory.read s.ctab i).length = s.codeMaxlen.toNat := by
  have hne : s.codes ≠ [] := List.ne_nil_of_length_pos (by
    rw [State.codes, Memory.length_firstEntries]
    exact Nat.pos_of_ne_zero h.nonempty)
  obtain ⟨c, hc, hlen⟩ := exists_length_eq_maxCodeLength hne
  obtain ⟨i, hi, rfl⟩ := mem_codes.1 hc
  exact ⟨i, hi, hlen.trans h.codeMaxlen.symm⟩

theorem State.Coded.length_bounds {i : Nat} (hi : i < s.nsym.toNat) :
    1 ≤ (Memory.read s.ctab i).length ∧ (Memory.read s.ctab i).length ≤ max 1 (s.nsym.toNat - 1) := by
  rw [h.read i hi, ← length_freqs]
  exact length_treeCode (length_freqs s ▸ hi)

theorem State.Coded.walkTree_read (htwo : 2 ≤ s.nsym.toNat) {i : Nat} (hi : i < s.nsym.toNat) :
    walkTree s.nodes (s.nodeCount.toNat - 1) (Memory.read s.ctab i) = some i := by
  rw [h.read i hi, ← length_nodes, h.nodes]
  exact treeWalk_treeCode (length_freqs s ▸ htwo) (length_freqs s ▸ hi)

end

theorem natCast_toNat (w : Word) : ((w.toNat : Nat) : Word) = w := by simp

/-- ROOT_FREQ is the sum of FTAB's frequencies, and that is IN_LEN (42_frequency.md R110, 43_tree_builder.md R120). -/
theorem rootFreq_eq_inLen (hcount : s.countDone = true) (hbuilt : s.buildDone = true) : s.rootFreq = s.inLen := by
  obtain ⟨hnsym, hnodes, hroot⟩ := (buildDone_iff s).1 hbuilt
  have hpos := toNat_ne_zero hnsym
  have hne : s.freqs ≠ [] := List.ne_nil_of_length_pos (by rw [length_freqs]; omega)
  have hcountPos : 0 < s.nodeCount.toNat := by
    rw [← length_nodes, hnodes]
    exact length_buildNodes_pos hne
  have htable : s.table = frequencyTable s.input := beq_iff_eq.1 hcount
  have hlen : s.input.length = s.inLen.toNat := by simp [State.input]
  have hread : Memory.read s.node (s.nodeCount.toNat - 1) = s.nodes.getD (s.nodes.length - 1) default := by
    rw [length_nodes, State.nodes, Memory.getD_firstEntries (by omega)]
  calc s.rootFreq = s.freqs.sum := by
        rw [hroot, hread, hnodes]
        exact (buildNodes_ends hne).2
    _ = ((s.table.map fun p => p.freq.toNat).sum : Nat) := by
        rw [Nat.cast_list_sum, List.map_map, State.freqs]
        exact congrArg List.sum (List.map_congr_left fun p _ => (natCast_toNat p.freq).symm)
    _ = s.inLen := by
        rw [htable, sum_frequencyTable (length_input_lt s), hlen, natCast_toNat]

/-! ### The core step of GENTAB -/

theorem coreStep_gentab (hphase : s.phase = .built) : (s.requestOperation .gentab).coreStep = { s with
    ctab := Memory.fill s.ctab 0 (codeTable s.nodes s.nsym.toNat)
    codeMaxlen := BitVec.ofNat 32 (maxCodeLength (codeTable s.nodes s.nsym.toNat))
    phase := .tabled, done := true, pending := none } := by
  rw [coreStep_requestOperation hphase]
  rfl

theorem State.Sound.coded_gentab (h : s.Sound) (hphase : s.phase = .built) :
    (s.requestOperation .gentab).coreStep.Coded := by
  have hrequest : (s.requestOperation .gentab).Sound := by
    rw [requestOperation_of_need hphase]
    exact ⟨{ h.canonical with }, { h.bounded with }, h.results⟩
  have hpending : (s.requestOperation .gentab).pendingConsistent = true := by
    rw [requestOperation_of_need hphase]
    simp [State.pendingConsistent, hphase, Operation.need]
  have hsound := hrequest.coreStep hpending
  have htabled : (s.requestOperation .gentab).coreStep.phase = .tabled := by rw [coreStep_gentab hphase]
  obtain ⟨-, -, -, hcodes, -⟩ := (results_tabled_iff htabled).1 hsound.results
  exact hsound.coded hcodes

end

end Sys2Proof.Machine

namespace Sys2Proof.Proofs

open Sys2Proof Sys2Proof.Machine

/-- Settles O42: the core step fills CTAB with `codeTable` of the nodes, whose entries are the root paths. -/
theorem gentabRecordsRootPaths : Obligations.GentabRecordsRootPaths := by
  intro s hinv hb hphase
  obtain ⟨hsound, -⟩ := (inv_iff s).1 hinv
  refine ⟨s.requestOperation .gentab, _, next_guardedWrite_of_not_busy hb, requestOperation_of_need hphase, rfl, ?_⟩
  have hcoded := hsound.coded_gentab hphase
  have hcore := coreStep_gentab hphase
  generalize (s.requestOperation .gentab).coreStep = t at hcoded hcore ⊢
  have hnsym : t.nsym = s.nsym := by rw [hcore]
  have hcount : t.nodeCount = s.nodeCount := by rw [hcore]
  have hnodes : t.nodes = s.nodes := by rw [hcore]; rfl
  rw [← hnsym, ← hcount, ← hnodes]
  refine ⟨by rw [hcore], fun hone => ?_, fun htwo i hi => hcoded.walkTree_read htwo hi, fun i hi => hcoded.length_le hi,
    hcoded.exists_length_eq, fun k hk => ?_⟩
  · rw [hcoded.read 0 (by omega)]
    exact treeCode_of_length_eq_one ((length_freqs t).trans hone)
  · rw [hnsym] at hk
    rw [hcore]
    exact (Memory.read_fill hsound.canonical.ctab 0 _ k).trans (if_neg (by rw [length_codeTable]; omega))

/-- Settles O43: CTAB holds the root paths of the leaves. -/
theorem codesArePrefixFree : Obligations.CodesArePrefixFree := by
  intro s hinv hc
  obtain ⟨hsound, -⟩ := (inv_iff s).1 hinv
  have hcoded := hsound.coded hc
  refine ⟨fun i hi => List.ne_nil_of_length_pos (hcoded.length_bounds hi).1, fun i j hi hj hij => ?_, fun htwo => ?_⟩
  · rw [hcoded.read i hi, hcoded.read j hj]
    exact not_isPrefix_treeCode (length_freqs s ▸ hi) (length_freqs s ▸ hj) hij
  · have hread : (List.range s.nsym.toNat).map (fun i => 2 ^ (s.codeMaxlen.toNat - (Memory.read s.ctab i).length)) =
        (List.range s.nsym.toNat).map fun i => 2 ^ (s.codeMaxlen.toNat - (treeCode s.freqs i).length) :=
      List.map_congr_left fun i hi => by rw [hcoded.read i (List.mem_range.1 hi)]
    rw [hread, ← length_freqs]
    refine sum_treeCode (length_freqs s ▸ htwo) fun i hi => ?_
    rw [length_freqs] at hi
    exact hcoded.read i hi ▸ hcoded.length_le hi

/-- Settles O44: a root path passes at most NSYM − 1 internal nodes, and the frequencies BUILD sums are counts. -/
theorem codeLengthsAndRootFrequency : Obligations.CodeLengthsAndRootFrequency := by
  intro s hinv hc
  obtain ⟨hsound, -⟩ := (inv_iff s).1 hinv
  obtain ⟨hcount, hbuilt, -⟩ := results_of_codeMaxlen_ne_zero hsound.results hc
  have hcoded := hsound.coded hc
  refine ⟨fun i hi => hcoded.length_bounds hi, ?_, rootFreq_eq_inLen hcount hbuilt⟩
  obtain ⟨i, hi, hmax⟩ := hcoded.exists_length_eq
  have hlen := (hcoded.length_bounds hi).2
  have hcap := hsound.bounded.nsym
  omega

end Sys2Proof.Proofs
end

section
/-! The bit packer of 45_bit_packer.md: the padding counts (R128, R129), the codes of the input (R126, R127), the bits
of the payload (R130, R131; 20_memory.md R64, R65), its length laws (R134), and the failures of PACK. -/

namespace Sys2Proof.Machine

/-! ### Padding (45_bit_packer.md R128, R129) -/

theorem padCount_false (body : Nat) : padCount false body = 8 - body % 8 := rfl

theorem padCount_true (body : Nat) : padCount true body = (8 - body % 8) % 8 := rfl

theorem padCount_aligns (mode : Bool) (body : Nat) : (body + padCount mode body) % 8 = 0 := by
  cases mode
  · rw [padCount_false]; omega
  · rw [padCount_true]; omega

/-! ### The codes of the input (45_bit_packer.md R126, R127) -/

/-- The code of a symbol: CTAB's at the index FTAB lists the symbol at, empty for a symbol it does not list. -/
def symbolCode (table : List FreqEntry) (codes : List Bits) (x : Sym) : Bits :=
  ((symbolIndex table x).map fun i => codes.getD i []).getD []

theorem symbolIndex_eq_none_iff {table : List FreqEntry} {x : Sym} :
    symbolIndex table x = none ↔ ∀ p ∈ table, p.sym ≠ x := by
  simp [symbolIndex, List.findIdx?_eq_none_iff]

/-- Step 1 of PACK fails at a symbol that has no entry, or gives the codes of the input in order. -/
theorem encodeInput_cases (table : List FreqEntry) (codes : List Bits) (input : List Sym) :
    ((∃ x ∈ input, ∀ p ∈ table, p.sym ≠ x) ∧ encodeInput table codes input = .error .unknownSymbol)
    ∨ ((∀ x ∈ input, ∃ p ∈ table, p.sym = x)
      ∧ encodeInput table codes input = .ok (input.flatMap (symbolCode table codes))) := by
  induction input with
  | nil => exact .inr ⟨by simp, rfl⟩
  | cons x xs ih =>
    cases hx : symbolIndex table x with
    | none =>
      refine .inl ⟨⟨x, List.mem_cons_self, symbolIndex_eq_none_iff.1 hx⟩, ?_⟩
      simp only [encodeInput, hx]
    | some i =>
      rcases ih with ⟨⟨y, hy, hnone⟩, he⟩ | ⟨hall, hok⟩
      · refine .inl ⟨⟨y, List.mem_cons_of_mem x hy, hnone⟩, ?_⟩
        simp only [encodeInput, hx, he]
      · have hlisted : ∃ p ∈ table, p.sym = x := by
          by_contra hno
          push Not at hno
          exact absurd (symbolIndex_eq_none_iff.2 hno) (by simp [hx])
        refine .inr ⟨List.forall_mem_cons.2 ⟨hlisted, hall⟩, ?_⟩
        simp only [encodeInput, hx, hok, List.flatMap_cons, symbolCode, Option.map_some, Option.getD_some]

section
variable {table : List FreqEntry} {codes : List Bits} {input : List Sym}

theorem encodeInput_of_unlisted {x : Sym} (hx : x ∈ input) (h : ∀ p ∈ table, p.sym ≠ x) :
    encodeInput table codes input = .error .unknownSymbol := by
  rcases encodeInput_cases table codes input with ⟨-, he⟩ | ⟨hall, -⟩
  · exact he
  · obtain ⟨p, hp, hsym⟩ := hall x hx
    exact absurd hsym (h p hp)

theorem encodeInput_of_listed (h : ∀ x ∈ input, ∃ p ∈ table, p.sym = x) :
    encodeInput table codes input = .ok (input.flatMap (symbolCode table codes)) := by
  rcases encodeInput_cases table codes input with ⟨⟨x, hx, hnone⟩, -⟩ | ⟨-, hok⟩
  · obtain ⟨p, hp, hsym⟩ := h x hx
    exact absurd hsym (hnone p hp)
  · exact hok

theorem eq_of_encodeInput_ok {bits : Bits} (h : encodeInput table codes input = .ok bits) :
    bits = input.flatMap (symbolCode table codes) := by
  rcases encodeInput_cases table codes input with ⟨-, he⟩ | ⟨-, hok⟩
  · rw [he] at h
    cases h
  · exact Except.ok.inj (h.symm.trans hok)

theorem eq_of_encodeInput_error {e : Err} (h : encodeInput table codes input = .error e) : e = .unknownSymbol := by
  rcases encodeInput_cases table codes input with ⟨-, he⟩ | ⟨-, hok⟩
  · exact Except.error.inj (h.symm.trans he)
  · rw [hok] at h
    cases h

/-- In a table that lists each symbol once, an entry's symbol is found at the entry. -/
theorem symbolIndex_getElem (hdistinct : (table.map FreqEntry.sym).Nodup) {i : Nat} (hi : i < table.length) :
    symbolIndex table table[i].sym = some i := by
  refine List.findIdx?_eq_some_iff_getElem.2 ⟨hi, beq_self_eq_true _, fun j hj hsame => ?_⟩
  have hindex : j = i := (hdistinct.getElem_inj_iff (hi := by simp; omega) (hj := by simpa)).1
    (by simpa using hsame)
  omega

end

/-- The code of the symbol of FTAB's entry `i` is CTAB's entry `i`. -/
theorem symbolCode_read {s : State} (hdistinct : (s.table.map FreqEntry.sym).Nodup) {i : Nat} (hi : i < s.nsym.toNat) :
    symbolCode s.table s.codes (Memory.read s.ftab i).sym = Memory.read s.ctab i := by
  have hindex := symbolIndex_getElem hdistinct (i := i) (by simpa using hi)
  simp only [State.table, Memory.getElem_firstEntries] at hindex
  rw [symbolCode, State.table, hindex]
  exact Memory.getD_firstEntries hi []

/-! ### The bits of the payload (45_bit_packer.md R130, R131; 20_memory.md R64) -/

/-- The number that `n` bits of a bit string write has the first of them as its most significant bit. -/
theorem getLsbD_ofNat_bitsFrom (bs : Bits) (k : Nat) {n t : Nat} (ht : t < n) :
    (BitVec.ofNat n (natOfBits (bitsFrom bs k n))).getLsbD (n - 1 - t) = bs.getD (k + t) false := by
  have hlt : n - 1 - t < n := by omega
  have hrev : (bitsFrom bs k n).reverse.getD (n - 1 - t) false = bs.getD (k + t) false := by
    rw [List.getD_eq_getElem _ _ (by simpa using hlt), List.getElem_reverse, getElem_bitsFrom, length_bitsFrom]
    congr 2
    omega
  rw [BitVec.getLsbD_ofNat, testBit_natOfBits, hrev]
  simp [hlt]

/-- Bit `m` of the bytes of a stream, the most significant bit of each byte first, is bit `m` of the stream. -/
theorem getLsbD_streamByte (stream : Bits) (m : Nat) :
    (streamByte stream (m / 8)).getLsbD (7 - m % 8) = stream.getD m false := by
  have hbit := getLsbD_ofNat_bitsFrom stream (8 * (m / 8)) (Nat.mod_lt m (by decide : 8 > 0))
  rwa [Nat.div_add_mod] at hbit

theorem getD_packStream_header (bits : Bits) (extra : Nat) {m : Nat} (hm : m < 8) :
    (packStream bits extra).getD m false = extra.testBit (7 - m) := by
  have hlen : m < (bin8 extra).length := by rwa [length_bin8]
  rw [packStream, List.append_assoc, List.getD_append _ _ _ _ hlen, List.getD_eq_getElem _ _ hlen]
  simp [bin8]

theorem getD_packStream_body (bits : Bits) (extra : Nat) {m : Nat} (hm : m < bits.length) :
    (packStream bits extra).getD (8 + m) false = bits.getD m false := by
  rw [packStream, List.append_assoc, List.getD_append_right _ _ _ _ (by simp), length_bin8, Nat.add_sub_cancel_left,
    List.getD_append _ _ _ _ hm]

theorem getD_packStream_padding (bits : Bits) (extra : Nat) {m : Nat} (hm : 8 + bits.length ≤ m) :
    (packStream bits extra).getD m false = false := by
  rw [packStream, List.getD_append_right _ _ _ _ (by simpa using hm), List.getD_eq_getElem?_getD,
    List.getElem?_getD_replicate_default_eq]

/-- The header byte is the padding count (45_bit_packer.md R130, 20_memory.md R65). -/
theorem streamByte_packStream_zero (bits : Bits) (extra : Nat) :
    streamByte (packStream bits extra) 0 = BitVec.ofNat 8 extra := by
  refine BitVec.eq_of_getLsbD_eq fun i hi => ?_
  have hbit := getLsbD_streamByte (packStream bits extra) (7 - i)
  rw [getD_packStream_header _ _ (by omega), Nat.div_eq_of_lt (by omega), Nat.mod_eq_of_lt (by omega),
    Nat.sub_sub_self (by omega)] at hbit
  rw [hbit, BitVec.getLsbD_ofNat]
  simp [hi]

/-! ### A packed state (45_bit_packer.md R133, R134) -/

/-- OBUF, OUT_LEN, BODY_BITS and PAD hold the payload of a body in a padding mode (`packDone_iff`). -/
structure State.HoldsPayload (s : State) (mode : Bool) (bits : Bits) : Prop where
  payload : s.payload = streamBytes (packStream bits (padCount mode bits.length))
  bodyBits : s.bodyBits = BitVec.ofNat 32 bits.length
  pad : s.pad = BitVec.ofNat 4 (padCount mode bits.length)

theorem packDone_iff (s : State) : s.packDone = true ↔
    ∃ bits mode, encodeInput s.table s.codes s.input = .ok bits ∧ s.HoldsPayload mode bits := by
  constructor
  · intro h
    unfold State.packDone at h
    split at h
    · cases h
    · next bits hbits =>
      obtain ⟨mode, -, hmode⟩ := List.any_eq_true.1 h
      simp only [Bool.and_eq_true, beq_iff_eq] at hmode
      obtain ⟨⟨hpayload, hbody⟩, hpad⟩ := hmode
      exact ⟨bits, mode, hbits, hpayload, hbody, hpad⟩
  · rintro ⟨bits, mode, hbits, h⟩
    exact packDone_of mode hbits h.payload h.bodyBits h.pad

section
variable {s : State} {mode : Bool} {bits : Bits} (h : s.HoldsPayload mode bits)
include h

theorem State.HoldsPayload.outLen : 8 * s.outLen.toNat = 8 + bits.length + padCount mode bits.length := by
  have hlen := congrArg List.length h.payload
  rw [State.payload, Memory.length_firstEntries, length_streamBytes, length_packStream] at hlen
  have := padCount_aligns mode bits.length
  omega

theorem State.HoldsPayload.toNat_bodyBits (hmax : s.outLen.toNat ≤ 2 ^ 28) : s.bodyBits.toNat = bits.length := by
  have := h.outLen
  rw [h.bodyBits, BitVec.toNat_ofNat, Nat.mod_eq_of_lt (by omega)]

theorem State.HoldsPayload.toNat_pad : s.pad.toNat = padCount mode bits.length := by
  have := padCount_le mode bits.length
  rw [h.pad, BitVec.toNat_ofNat, Nat.mod_eq_of_lt (by omega)]

theorem State.HoldsPayload.read_obuf {j : Nat} (hj : j < s.outLen.toNat) :
    Memory.read s.obuf j = streamByte (packStream bits (padCount mode bits.length)) j := by
  have hbyte := congrArg (fun bytes => bytes.getD j default) h.payload
  rw [State.payload, Memory.getD_firstEntries hj] at hbyte
  have hlen := h.outLen
  rw [hbyte, List.getD_eq_getElem _ _ (by simp; omega)]
  simp [streamBytes]

theorem State.HoldsPayload.read_obuf_zero : Memory.read s.obuf 0 = BitVec.ofNat 8 (padCount mode bits.length) := by
  have hlen := h.outLen
  rw [h.read_obuf (by omega), streamByte_packStream_zero]

theorem State.HoldsPayload.getLsbD_obuf {m : Nat} (hm : m < 8 * s.outLen.toNat) :
    (Memory.read s.obuf (m / 8)).getLsbD (7 - m % 8) =
      (packStream bits (padCount mode bits.length)).getD m false := by
  rw [h.read_obuf (by omega), getLsbD_streamByte]

end

/-! ### BODY_BITS by FTAB and CTAB (45_bit_packer.md R134) -/

theorem frequencyTable_nodup_sym (input : List Sym) : ((frequencyTable input).map FreqEntry.sym).Nodup := by
  have hsyms : (countPairs input).map FreqEntry.sym = input.dedup := by
    rw [countPairs, List.map_map]
    exact List.map_id _
  rw [((frequencyTable_perm input).map _).nodup_iff, hsyms]
  exact List.nodup_dedup input

/-- A sum over the input, taken symbol by symbol. -/
theorem sum_frequencyTable_mul {input : List Sym} (h : input.length < 2 ^ 32) (f : Sym → Nat) :
    ((frequencyTable input).map fun p => p.freq.toNat * f p.sym).sum = (input.map f).sum := by
  rw [((frequencyTable_perm input).map _).sum_eq, countPairs, List.map_map,
    ← List.sum_toFinset _ (List.nodup_dedup input), List.toFinset.ext fun _ => List.mem_dedup,
    Finset.sum_list_map_count]
  exact Finset.sum_congr rfl fun x _ => congrArg (· * f x) (toNat_ofNat_count h x)

theorem length_encoded_input {s : State} (hcount : s.countDone = true) :
    (s.input.flatMap (symbolCode s.table s.codes)).length =
      ((List.range s.nsym.toNat).map fun i =>
        (Memory.read s.ftab i).freq.toNat * (Memory.read s.ctab i).length).sum := by
  have htable : s.table = frequencyTable s.input := beq_iff_eq.1 hcount
  have hdistinct : (s.table.map FreqEntry.sym).Nodup := htable ▸ frequencyTable_nodup_sym s.input
  calc (s.input.flatMap (symbolCode s.table s.codes)).length
      = (s.input.map fun x => (symbolCode s.table s.codes x).length).sum := List.length_flatMap
    _ = (s.table.map fun p => p.freq.toNat * (symbolCode s.table s.codes p.sym).length).sum := by
        rw [← sum_frequencyTable_mul (length_input_lt s), ← htable]
    _ = _ := by
        refine congrArg List.sum (List.map_map.trans (List.map_congr_left fun i hi => ?_))
        rw [Function.comp, symbolCode_read hdistinct (List.mem_range.1 hi)]

/-! ### PACK and the failures of the stages -/

section
variable {s : State}

theorem performPack_of_encodeInput_error {e : Err} (h : encodeInput s.table s.codes s.input = .error e) :
    performPack s = .error e := by
  rw [performPack, h]

/-- The guard of 45_bit_packer.md R131 does not fire: the padding aligns the stream. -/
theorem performPack_of_encodeInput_ok {bits : Bits} (h : encodeInput s.table s.codes s.input = .ok bits) :
    performPack s = if 8 * s.cfg.maxOut < 8 + bits.length + padCount s.padMode bits.length then .error .outputOverflow
      else .ok { s with
        obuf := Memory.fill s.obuf 0 (streamBytes (packStream bits (padCount s.padMode bits.length)))
        outLen := BitVec.ofNat 32 ((8 + bits.length + padCount s.padMode bits.length) / 8)
        outPtr := 0
        bodyBits := BitVec.ofNat 32 bits.length
        pad := BitVec.ofNat 4 (padCount s.padMode bits.length) } := by
  have haligned := padCount_aligns s.padMode bits.length
  simp only [performPack, h, length_packStream]
  rw [if_neg (by omega)]
  exact if_congr (by omega) rfl rfl

/-- A stage that fails is what makes stages in a row fail. -/
theorem StagePath.exists_failed {p r : Phase} {stages : List ((State → Except Err State) × Phase)}
    (hpath : StagePath p stages r) {e : Err} (h : (performStages stages s).2 = some e) :
    ∃ p perform q, Stage p perform q ∧ ∃ t, perform t = .error e := by
  induction hpath generalizing s with
  | nil => cases h
  | cons stage path ih =>
    rcases performStages_cons _ _ _ s with ⟨e', hfail, hr⟩ | ⟨s', -, hr⟩ <;> rw [hr] at h
    · obtain rfl := Option.some.inj h
      exact ⟨_, _, _, stage, s, hfail⟩
    · exact ih h

/-- The error of an operation is the one its stages, done in a row, end with. -/
theorem performOperation_error (op : Operation) (s : State) :
    (performOperation op s).2 = (performStages op.stages s).2 := by
  have single (perform : State → Except Err State) (q : Phase) :
      (performStage perform s).2 = (performStages [(perform, q)] s).2 := by
    cases h : perform s <;> simp [performStage, performStages, h]
  cases op with
  | count | build | gentab | pack => exact single _ _
  | run => rfl

theorem Stage.ne_misaligned {p q : Phase} {perform : State → Except Err State} (hstage : Stage p perform q)
    (s : State) : perform s ≠ .error .misalignedBitstream := by
  cases hstage with
  | count => rcases performCount_cases s with ⟨-, h⟩ | ⟨-, h⟩ <;> rw [h] <;> nofun
  | build => rcases performBuild_cases s with ⟨-, h⟩ | ⟨-, _, -, h⟩ <;> rw [h] <;> nofun
  | gentab => nofun
  | pack =>
    cases hbits : encodeInput s.table s.codes s.input with
    | error e =>
      rw [performPack_of_encodeInput_error hbits, eq_of_encodeInput_error hbits]
      nofun
    | ok bits =>
      rw [performPack_of_encodeInput_ok hbits]
      split <;> nofun

theorem coreStep_pack (hphase : s.phase = .tabled) {bits : Bits}
    (hbits : encodeInput s.table s.codes s.input = .ok bits)
    (hfits : 8 + bits.length + padCount s.padMode bits.length ≤ 8 * s.cfg.maxOut) :
    (s.requestOperation .pack).coreStep = { s with
      obuf := Memory.fill s.obuf 0 (streamBytes (packStream bits (padCount s.padMode bits.length)))
      outLen := BitVec.ofNat 32 ((8 + bits.length + padCount s.padMode bits.length) / 8), outPtr := 0
      bodyBits := BitVec.ofNat 32 bits.length, pad := BitVec.ofNat 4 (padCount s.padMode bits.length)
      phase := .packed, done := true, pending := none } := by
  rw [coreStep_requestOperation hphase]
  simp only [Operation.stages, performStages, performPack_of_encodeInput_ok hbits, if_neg (Nat.not_lt.2 hfits)]
  rfl

/-- Where each input symbol is that of one entry (`idx` gives it), step 1 lists the codes of these entries. -/
theorem encodeInput_of_index {idx : Nat → Nat} (hdistinct : (s.table.map FreqEntry.sym).Nodup)
    (hidx : ∀ k < s.inLen.toNat, idx k < s.nsym.toNat ∧ (Memory.read s.ftab (idx k)).sym = Memory.read s.ibuf k) :
    encodeInput s.table s.codes s.input =
      .ok ((List.range s.inLen.toNat).flatMap fun k => Memory.read s.ctab (idx k)) := by
  have hlisted : ∀ x ∈ s.input, ∃ p ∈ s.table, p.sym = x := by
    intro x hx
    obtain ⟨k, hk, rfl⟩ := List.mem_map.1 hx
    obtain ⟨hlt, hsym⟩ := hidx k (List.mem_range.1 hk)
    exact ⟨_, mem_table.2 ⟨_, hlt, rfl⟩, hsym⟩
  rw [encodeInput_of_listed hlisted]
  simp only [State.input, Memory.firstEntries, List.flatMap_map]
  refine congrArg Except.ok (List.flatMap_congr fun k hk => ?_)
  obtain ⟨hlt, hsym⟩ := hidx k (List.mem_range.1 hk)
  rw [← hsym, symbolCode_read hdistinct hlt]

end

end Sys2Proof.Machine

namespace Sys2Proof.Proofs

open Sys2Proof Sys2Proof.Machine

/-- Settles O45: the core step fills OBUF with the bytes of `packStream`, and each clause is a fact about its bits. -/
theorem packWritesPayload : Obligations.PackWritesPayload := by
  intro s idx hb hphase hwf hmax hidx hinj bits extra hbits hextra hfits
  obtain rfl : extra = padCount s.padMode bits.length := hextra
  have hdistinct : (s.table.map FreqEntry.sym).Nodup := by
    rw [State.table, Memory.firstEntries, List.map_map]
    exact List.nodup_range.map_on fun i hi j hj => hinj i j (List.mem_range.1 hi) (List.mem_range.1 hj)
  have hcore := coreStep_pack hphase (hbits ▸ encodeInput_of_index hdistinct hidx) hfits
  refine ⟨s.requestOperation .pack, _, next_guardedWrite_of_not_busy hb, requestOperation_of_need hphase, rfl, ?_⟩
  generalize (s.requestOperation .pack).coreStep = t at hcore ⊢
  have hholds : t.HoldsPayload s.padMode bits := by
    rw [hcore]
    exact ⟨Memory.firstEntries_fill_ofNat hwf (by simp) (by omega), rfl, rfl⟩
  have hlen := hholds.outLen
  refine ⟨by rw [hcore], hlen, hholds.toNat_bodyBits (by omega), hholds.toNat_pad, hholds.read_obuf_zero,
    fun m hm => ?_, fun m hm hlt => ?_, fun k hk => ?_⟩
  · rw [hholds.getLsbD_obuf (by omega), getD_packStream_body _ _ hm, List.getD_eq_getElem?_getD]
  · rw [hholds.getLsbD_obuf hlt, getD_packStream_padding _ _ hm]
  · rw [hcore]
    refine (Memory.read_fill hwf 0 _ k).trans (if_neg ?_)
    rw [length_streamBytes, length_packStream]
    omega

/-- Settles O47: a symbol without an entry stops step 1, and a payload that is too long is the only other failure. -/
theorem packFailures : Obligations.PackFailures := by
  refine fun s hp => ⟨fun ⟨k, hk, hnone⟩ => ?_, fun bits hbits hlong => ?_⟩
  · have hinput : Memory.read s.ibuf k ∈ s.input := List.mem_map.2 ⟨k, List.mem_range.2 hk, rfl⟩
    have hunlisted : ∀ p ∈ s.table, p.sym ≠ Memory.read s.ibuf k := by
      intro p hmem
      obtain ⟨i, hi, rfl⟩ := mem_table.1 hmem
      exact hnone i hi
    exact coreStep_of_error hp rfl (performPack_of_encodeInput_error (encodeInput_of_unlisted hinput hunlisted))
  · exact coreStep_of_error hp rfl ((performPack_of_encodeInput_ok hbits).trans (if_pos hlong))

/-- Settles O48: an operation fails as one of its stages does, and PACK's padding aligns its stream. -/
theorem misalignedBitstreamNeverRaised : Obligations.MisalignedBitstreamNeverRaised := by
  intro s op h
  rw [performOperation_error] at h
  obtain ⟨_, _, _, hstage, t, hfail⟩ := op.path.exists_failed h
  exact hstage.ne_misaligned t hfail

/-- Settles O52: the payload is that of the input's codes, and FTAB counts how often each of them stands in it. -/
theorem payloadLengthLaws : Obligations.PayloadLengthLaws := by
  intro s hinv hphase
  obtain ⟨hsound, -⟩ := (inv_iff s).1 hinv
  obtain ⟨-, hcount, -, -, -, -, hpack⟩ := (results_packed_iff hphase).1 hsound.results
  obtain ⟨bits, mode, hbits, hholds⟩ := (packDone_iff s).1 hpack
  have hbody := hholds.toNat_bodyBits (hsound.bounded.outLen.trans hsound.bounded.maxOut_le)
  have hpad := padCount_le mode bits.length
  rw [hbody, hholds.toNat_pad, hholds.read_obuf_zero]
  refine ⟨hholds.outLen, ?_, ?_⟩
  · rw [BitVec.toNat_ofNat, Nat.mod_eq_of_lt (by omega)]
  · rw [eq_of_encodeInput_ok hbits, length_encoded_input hcount]

/-- Settles O46: both counts by the body's remainder modulo 8. -/
theorem paddingCounts : Obligations.PaddingCounts := by
  intro body
  have hreference := padCount_aligns false body
  have hcorrected := padCount_aligns true body
  rw [padCount_false] at hreference ⊢
  rw [padCount_true] at hcorrected ⊢
  exact ⟨rfl, by omega, by omega, hreference, rfl, by omega, hcorrected, fun hne => by omega, fun h => by omega⟩

end Sys2Proof.Proofs
end

section
/-! The exceptions of 60_exceptions.md: error entry (R139, R144), what PHASE ERROR ignores and what leaves it (R146,
R147), how long BUSYERR and irq stay (R148, R150, R151), and that PACK finds every symbol of the input (R137). -/

namespace Sys2Proof.Machine

/-! ### Error entry and PHASE ERROR (60_exceptions.md R139, R144, R146) -/

section
variable {s : State}

theorem rejectCommand_of_error (h : s.phase = .error) : s.rejectCommand = s := if_pos h

theorem rejectCommand_of_not_error (h : s.phase ≠ .error) : s.rejectCommand = s.enterError .illegalCommand := if_neg h

/-- While BUSY = 0 a guarded write answers what its effect is known to be. -/
theorem next_guardedWrite_eq {f : State → State} (hb : s.busy = false) {t : State} (hf : f s = t) :
    (.next (s.guardedWrite f) : Host.Outcome State Fault Refusal) = .next t :=
  (next_guardedWrite_of_not_busy hb).trans (congrArg _ hf)

end

/-! ### The start of a new run (60_exceptions.md R147, 70_reset_and_hazards.md R157) -/

section
variable {s : State}

/-- Does the next event start a new run? -/
def State.takesNewRun (s : State) : Prop := ∃ e rest, s.inbox = e :: rest ∧ e.startsRun s.cfg = true

/-- The CLEAR word written to CMD, as a BOW, clears the run. -/
theorem hostAccess_clear_bow (s : State) : s.hostAccess (.bow 0x9C00000001#40) = .next s.clearRun := by
  have hdec : decode (.bow 0x9C00000001#40) = .ok (.wrCmd 0x00000001) := by decide
  rw [hostAccess_of_decode hdec, exec_wrCmd]
  rfl

/-- The CLEAR word written to CMD over the bus is its BOW, by lanes and address (20_memory.md R63). -/
theorem busAccess_clear (s : State) :
    s.busAccess (.write (s.cfg.base + 0x1C) [0x01#8, 0x00#8, 0x00#8, 0x00#8]) = .next s.clearRun := by
  have hbow : bowWord true 0x1C#7 0x00000001 = 0x9C00000001#40 := by decide
  have hword := busAccess_write_word s 0x1C#7 0x00000001
  rw [hbow, hostAccess_clear_bow] at hword
  exact hword

theorem handle_of_startsRun {e : Event} (h : e.startsRun s.cfg = true) :
    State.handle e s = .next s.clearRun ∨ State.handle e s = .next s.hardwareReset := by
  cases e with
  | hardReset => exact .inr rfl
  | coreTurn => cases h
  | host w =>
    simp only [Event.startsRun, Bool.or_eq_true, beq_iff_eq] at h
    rcases h with rfl | rfl
    · exact .inl rfl
    · exact .inl (hostAccess_clear_bow s)
  | bus a =>
    obtain rfl := beq_iff_eq.1 h
    exact .inl (busAccess_clear s)

/-- A step starts a new run, or is a turn of the core, or has the effect of a host access that is not CLEAR. -/
theorem step_cases {t : State} (h : step s = .next t) : s.takesNewRun ∨ ∃ rest,
    t = State.coreStep { s with inbox := rest }
      ∨ ∃ i, HostEffect i { s with inbox := rest } t ∧ ¬ (i = .clear ∨ i = .wrCmd 0x00000001) := by
  cases stepEffect_of_step h with
  | alone => exact .inr ⟨s.inbox, .inl rfl⟩
  | core rest => exact .inr ⟨rest, .inl rfl⟩
  | reset rest next => exact .inl ⟨_, rest, next, rfl⟩
  | host e rest i _ next effect only_clear =>
    by_cases hi : i = .clear ∨ i = .wrCmd 0x00000001
    · exact .inl ⟨e, rest, next, only_clear hi⟩
    · exact .inr ⟨rest, .inr ⟨i, effect, hi⟩⟩
  | skipped e rest v => exact .inr ⟨rest, .inr ⟨.nop, .answered v, by decide⟩⟩

end

/-! ### What stays until a new run -/

section
variable {s t : State} {i : Instr}

/-- An error is entered only from outside PHASE ERROR (60_exceptions.md R146). -/
theorem HostEffect.keeps_error (he : HostEffect i s t) (hi : ¬ (i = .clear ∨ i = .wrCmd 0x00000001))
    (h : s.phase = .error) : t.phase = .error ∧ t.err = s.err := by
  cases he with
  | cleared by_clear => exact absurd by_clear hi
  | failed _ _ good => exact absurd h good
  | same | answered | popped | marked | accepted | pushed | ctrl | indexed => exact ⟨h, rfl⟩

theorem HostEffect.keeps_busyErr (he : HostEffect i s t) (hi : ¬ (i = .clear ∨ i = .wrCmd 0x00000001))
    (h : s.busyErr = true) : t.busyErr = true := by
  cases he with
  | cleared by_clear => exact absurd by_clear hi
  | marked => rfl
  | same | answered | popped | failed | accepted | pushed | ctrl | indexed => exact h

/-- A core step commutes with the mark, so it keeps a mark that stands (60_exceptions.md R148). -/
theorem coreStep_busyErr (h : s.busyErr = true) : s.coreStep.busyErr = true := by
  have hmarked : s.markBusyErr = s := by rw [State.markBusyErr, ← h]
  rw [← hmarked, coreStep_markBusyErr, markBusyErr_busyErr]

theorem irq_iff (s : State) : s.irq = true ↔ s.ie = true ∧ s.done = true := Bool.and_eq_true_iff

/-- The stages write neither IE nor DONE, and both ends of a core step set DONE (41_commands.md R107, 60_exceptions.md
R145). -/
theorem coreKeeps_irq : CoreKeeps fun s => s.irq = true where
  count h ht := by obtain ⟨-, rfl⟩ := eq_of_performCount_ok ht; exact h
  build h ht := by obtain ⟨-, _, -, rfl⟩ := eq_of_performBuild_ok ht; exact h
  gentab h ht := by obtain rfl := eq_of_performGentab_ok ht; exact h
  pack h ht := by obtain ⟨_, _, -, -, -, rfl⟩ := eq_of_performPack_ok ht; exact h
  phase _ h := h
  completed {s} _ h := (irq_iff _).2 ⟨((irq_iff s).1 h).1, rfl⟩
  failed {s} _ h := (irq_iff _).2 ⟨((irq_iff s).1 h).1, rfl⟩

/-- Only a write to CTRL and the acceptance of an operation let irq fall without a new run (60_exceptions.md R151). -/
theorem HostEffect.irq_falls (he : HostEffect i s t) (hi : ¬ (i = .clear ∨ i = .wrCmd 0x00000001))
    (h : s.irq = true) (ht : t.irq = false) :
    (t.ie = false ∧ t.done = true) ∨ (s.busy = false ∧ t.busy = true ∧ t.done = false) := by
  obtain ⟨hie, hdone⟩ := (irq_iff s).1 h
  have hfalls : ¬ t.irq = true := Bool.not_eq_true _ ▸ ht
  cases he with
  | cleared by_clear => exact absurd by_clear hi
  | accepted _ idle => exact .inr ⟨idle, rfl, rfl⟩
  | ctrl v => exact .inl ⟨eq_false_of_ne_true fun hv => hfalls ((irq_iff _).2 ⟨hv, hdone⟩), hdone⟩
  | failed e => exact absurd ((irq_iff (s.enterError e)).2 ⟨hie, rfl⟩) hfalls
  | same | answered | popped | marked | pushed | indexed => exact absurd h hfalls

end

/-! ### UnknownSymbol (60_exceptions.md R137) -/

/-- The table COUNT makes lists every symbol of the input (42_frequency.md R110). -/
theorem encodeInput_of_countDone {s : State} (h : s.countDone = true) :
    ∃ bits, encodeInput s.table s.codes s.input = .ok bits := by
  have htable : s.table = frequencyTable s.input := beq_iff_eq.1 h
  refine ⟨_, encodeInput_of_listed fun x hx => ?_⟩
  rw [htable]
  exact ⟨⟨x, BitVec.ofNat 32 (s.input.count x)⟩, mem_frequencyTable.2 ⟨hx, rfl⟩, rfl⟩

theorem Stage.ne_unknownSymbol {p q : Phase} {perform : State → Except Err State} (hstage : Stage p perform q)
    {s : State} (h : s.Sound) (hphase : s.phase = p) : perform s ≠ .error .unknownSymbol := by
  cases hstage with
  | count => rcases performCount_cases s with ⟨-, hc⟩ | ⟨-, hc⟩ <;> rw [hc] <;> nofun
  | build => rcases performBuild_cases s with ⟨-, hc⟩ | ⟨-, _, -, hc⟩ <;> rw [hc] <;> nofun
  | gentab => nofun
  | pack =>
    obtain ⟨-, hcount, -⟩ := (results_tabled_iff hphase).1 h.results
    obtain ⟨bits, hbits⟩ := encodeInput_of_countDone hcount
    rw [performPack_of_encodeInput_ok hbits]
    split <;> nofun

/-- Each stage of a path starts in a sound state of the PHASE it needs. -/
theorem StagePath.ne_unknownSymbol {p r : Phase} {stages : List ((State → Except Err State) × Phase)}
    (hpath : StagePath p stages r) {s : State} (h : s.Sound) (hphase : s.phase = p) :
    (performStages stages s).2 ≠ some .unknownSymbol := by
  induction hpath generalizing s with
  | nil => nofun
  | cons stage path ih =>
    rcases performStages_cons _ _ _ s with ⟨e, hfail, hr⟩ | ⟨s', hok, hr⟩ <;> rw [hr]
    · rintro ⟨⟩
      exact stage.ne_unknownSymbol h hphase hfail
    · exact ih (stage.sound h hphase hok) rfl

end Sys2Proof.Machine

namespace Sys2Proof.Proofs

open Sys2Proof Sys2Proof.Machine

/-- Settles O33: in PHASE ERROR nothing is pending and no error is entered; the starting events are CLEAR or reset. -/
theorem onlyClearOrResetLeavesError : Obligations.OnlyClearOrResetLeavesError := by
  refine ⟨fun s t herr hphase hst hchange => ?_, fun s e rest hinbox hstart => ?_⟩
  · obtain ⟨-, herror⟩ := (errorConsistent_iff s).1 herr
    obtain ⟨-, hpending, -⟩ := herror hphase
    have hkept : ¬ (t.phase = .error ∧ t.err = s.err) := fun ⟨hp, he⟩ => hchange.elim (absurd hp) (absurd he)
    rcases step_cases hst with hnew | ⟨rest, rfl | ⟨i, he, hi⟩⟩
    · exact hnew
    · rw [coreStep_of_none (s := { s with inbox := rest }) hpending] at hkept
      exact absurd ⟨hphase, rfl⟩ hkept
    · exact absurd (he.keeps_error hi hphase) hkept
  · rw [step_of_inbox_cons hinbox]
    rcases handle_of_startsRun (s := { s with inbox := rest }) hstart with h | h <;>
      exact ⟨_, h, rfl, rfl, rfl, rfl⟩

/-- Settles O34: the core and every host access but CLEAR keep BUSYERR. -/
theorem busyErrStaysUntilNewRun : Obligations.BusyErrStaysUntilNewRun := by
  intro s t h hst ht
  have hfalls : ¬ t.busyErr = true := Bool.not_eq_true _ ▸ ht
  rcases step_cases hst with hnew | ⟨rest, rfl | ⟨i, he, hi⟩⟩
  · exact hnew
  · exact absurd (coreStep_busyErr (s := { s with inbox := rest }) h) hfalls
  · exact absurd (he.keeps_busyErr hi h) hfalls

/-- Settles O35: a core step keeps irq, and of the host accesses only CTRL writes, acceptances and CLEAR do not. -/
theorem irqFallsOnlyAsStated : Obligations.IrqFallsOnlyAsStated := by
  intro s t h hst ht
  rcases step_cases hst with hnew | ⟨rest, rfl | ⟨i, he, hi⟩⟩
  · exact .inr (.inr hnew)
  · exact absurd (coreKeeps_irq.coreStep (s := { s with inbox := rest }) h) (Bool.not_eq_true _ ▸ ht)
  · exact (he.irq_falls hi h ht).imp_right .inl

/-- Settles O49: an operation fails as one of its stages does, and PACK runs only where FTAB counts the input. -/
theorem unknownSymbolUnreachable : Obligations.UnknownSymbolUnreachable := by
  intro s op hinv hp
  obtain ⟨hsound, hsettled⟩ := (inv_iff s).1 hinv
  obtain ⟨hneed, -⟩ := (pendingConsistent_iff s).1 hsettled.pending op hp
  rw [performOperation_error]
  exact op.path.ne_unknownSymbol hsound hneed

/-- Settles O30: the second branch of `State.rejectCommand`, for every word that is not legal. -/
theorem illegalCommandEntersError : Obligations.IllegalCommandEntersError := by
  intro s cw hb hphase hbits
  have hlegal : ¬ legalCw cw = true := by
    rw [legalCw_iff, not_and_or, Nat.not_le]
    exact hbits
  have hdec : decodeCw cw = .illegalCw cw := decodeCw_of_not_legal hlegal
  exact ⟨congrArg _ hdec, next_guardedWrite_eq hb (rejectCommand_of_not_error hphase), by rw [exec_wrCmd, hdec]⟩

/-- Settles O31: the PHASE ERROR branches of an operation command, an illegal word and a push. -/
theorem errorStateIgnoresOperations : Obligations.ErrorStateIgnoresOperations := by
  intro s v hphase hb
  have hrequest (op : Operation) := next_guardedWrite_eq hb (requestOperation_of_error (op := op) hphase)
  simp only [List.forall_mem_cons]
  exact ⟨hrequest .count, hrequest .build, hrequest .gentab, hrequest .pack, hrequest .run,
    next_guardedWrite_eq hb (rejectCommand_of_error hphase),
    next_guardedWrite_eq hb (pushSymbol_of_error hphase), nofun⟩

/-- Settles O32: the wrong-PHASE branches of an operation command and a push. -/
theorem outOfOrderIsSequenceError : Obligations.OutOfOrderIsSequenceError := by
  intro s v hb hphase
  have hrequest (op : Operation) (hneed : s.phase ≠ op.need) :=
    next_guardedWrite_eq hb (requestOperation_of_wrong_phase hphase hneed)
  simp only [List.forall_mem_cons]
  exact ⟨hrequest .count, hrequest .build, hrequest .gentab, hrequest .pack, hrequest .run,
    fun hidle => next_guardedWrite_eq hb (pushSymbol_of_wrong_phase hphase hidle), nofun⟩

end Sys2Proof.Proofs
end

section
/-! RUN computes its payload, or its error, from the parameters, PAD_MODE and the input alone (70_reset_and_hazards.md
R166), and the reset input sets every register (70_reset_and_hazards.md R157). -/

namespace Sys2Proof.Machine

/-! ### What the stages of RUN read -/

/-- Entries just filled read back alike from any two memories, also when a count register that wraps holds fewer. -/
theorem Memory.firstEntries_fill_congr {α : Type} [Inhabited α] [DecidableEq α] {m m' : Memory α}
    (h : Memory.wf m = true) (h' : Memory.wf m' = true) {vs : List α} {n : Nat} (hn : n ≤ vs.length) :
    Memory.firstEntries (Memory.fill m 0 vs) n = Memory.firstEntries (Memory.fill m' 0 vs) n := by
  refine List.map_congr_left fun i hi => ?_
  have hfilled : 0 ≤ i ∧ i < 0 + vs.length := by
    have := List.mem_range.1 hi
    omega
  rw [Memory.read_fill h, Memory.read_fill h', if_pos hfilled, if_pos hfilled]

/-- Two states that agree in the input of RUN and, of the results made on the way to PHASE `p`, in those that the stages
from there on read; in PHASE PACKED, in the payload (41_commands.md R106). -/
structure State.runsAlike (p : Phase) (s t : State) : Prop where
  cfg : t.cfg = s.cfg
  padMode : t.padMode = s.padMode
  input : t.input = s.input
  table : p ≠ .idle → t.table = s.table
  nodes : p = .built → t.nodes = s.nodes
  codes : p = .tabled → t.codes = s.codes
  payload : p = .packed → t.payload = s.payload

/-- Two results of a stage that are the same error, or states in which the stages after PHASE `q` run alike. -/
def endAlike (q : Phase) (a b : Except Err State) : Prop :=
  (∃ e, a = .error e ∧ b = .error e) ∨ ∃ s t : State, a = .ok s ∧ b = .ok t ∧ s.runsAlike q t

theorem endAlike_error {q : Phase} (e : Err) : endAlike q (.error e) (.error e) := .inl ⟨e, rfl, rfl⟩

section
variable {s t : State} {p q r : Phase}

theorem endAlike_ok (h : s.runsAlike q t) : endAlike q (.ok s) (.ok t) := .inr ⟨s, t, rfl, rfl, h⟩

/-- NSYM is the number of entries of FTAB. -/
theorem State.runsAlike.nsym (h : s.runsAlike p t) (hp : p ≠ .idle) : t.nsym = s.nsym :=
  BitVec.eq_of_toNat_eq (by simpa using congrArg List.length (h.table hp))

/-- OUT_LEN is the number of bytes of the payload. -/
theorem State.runsAlike.outLen (h : s.runsAlike .packed t) : t.outLen = s.outLen :=
  BitVec.eq_of_toNat_eq (by simpa [State.payload] using congrArg List.length (h.payload rfl))

/-! ### Each stage writes what the next ones read -/

/-- COUNT reads the input and MAX_SYMS. -/
theorem State.runsAlike.performCount (h : s.runsAlike .idle t) (hs : s.Canonical) (ht : t.Canonical) :
    endAlike .counted (performCount s) (performCount t) := by
  refine rel_ite (by rw [h.cfg, h.input]) (fun _ => endAlike_error _) fun _ => ?_
  rw [h.input]
  exact endAlike_ok { h with
    table := fun _ => Memory.firstEntries_fill_congr ht.ftab hs.ftab
      (toNat_ofNat_le _ (length_frequencyTable s.input).ge)
    nodes := nofun, codes := nofun, payload := nofun }

/-- BUILD reads FTAB. -/
theorem State.runsAlike.performBuild (h : s.runsAlike .counted t) (hs : s.Canonical) (ht : t.Canonical) :
    endAlike .built (performBuild s) (performBuild t) := by
  refine rel_ite (by rw [h.nsym nofun]) (fun _ => endAlike_error _) fun _ => ?_
  rw [h.table nofun]
  exact endAlike_ok { h with
    table := fun _ => h.table nofun
    nodes := fun _ => Memory.firstEntries_fill_congr ht.node hs.node (toNat_ofNat_le _ le_rfl)
    codes := nofun, payload := nofun }

/-- GENTAB reads NODE and NSYM. -/
theorem State.runsAlike.performGentab (h : s.runsAlike .built t) (hs : s.Canonical) (ht : t.Canonical) :
    endAlike .tabled (performGentab s) (performGentab t) := by
  have hcodes : codeTable t.nodes t.nsym.toNat = codeTable s.nodes s.nsym.toNat := by rw [h.nodes rfl, h.nsym nofun]
  rw [performGentab_eq, performGentab_eq, hcodes]
  refine endAlike_ok { h with
    table := fun _ => h.table nofun
    nodes := nofun, codes := fun _ => ?_, payload := nofun }
  simp only [State.codes, h.nsym nofun]
  exact Memory.firstEntries_fill_congr ht.ctab hs.ctab (length_codeTable _ _).ge

/-- PACK reads the input, FTAB, CTAB, PAD_MODE and MAX_OUT. -/
theorem State.runsAlike.performPack (h : s.runsAlike .tabled t) (hs : s.Canonical) (ht : t.Canonical) :
    endAlike .packed (performPack s) (performPack t) := by
  have hinput : encodeInput t.table t.codes t.input = encodeInput s.table s.codes s.input := by
    rw [h.table nofun, h.codes rfl, h.input]
  cases hbits : encodeInput s.table s.codes s.input with
  | error e =>
    rw [performPack_of_encodeInput_error hbits, performPack_of_encodeInput_error (hinput.trans hbits)]
    exact endAlike_error e
  | ok bits =>
    have hpad : padCount t.padMode bits.length = padCount s.padMode bits.length := by rw [h.padMode]
    rw [performPack_of_encodeInput_ok hbits, performPack_of_encodeInput_ok (hinput.trans hbits), hpad]
    refine rel_ite (by rw [h.cfg]) (fun _ => endAlike_error _) fun _ => endAlike_ok { h with
      table := fun _ => h.table nofun
      nodes := nofun, codes := nofun
      payload := fun _ => Memory.firstEntries_fill_congr ht.obuf hs.obuf (toNat_ofNat_le _ (by simp)) }

theorem Stage.endAlike {perform : State → Except Err State} (hstage : Stage p perform q) (h : s.runsAlike p t)
    (hs : s.Canonical) (ht : t.Canonical) : endAlike q (perform s) (perform t) := by
  cases hstage with
  | count => exact h.performCount hs ht
  | build => exact h.performBuild hs ht
  | gentab => exact h.performGentab hs ht
  | pack => exact h.performPack hs ht

/-- Stages in a row stop at the same error, or all succeed. -/
theorem StagePath.runsAlike {stages : List ((State → Except Err State) × Phase)} (hpath : StagePath p stages r)
    (h : s.runsAlike p t) (hs : s.Canonical) (ht : t.Canonical) :
    (∃ e s' t', performStages stages s = (s', some e) ∧ performStages stages t = (t', some e))
      ∨ ∃ s' t', performStages stages s = (s', none) ∧ performStages stages t = (t', none) ∧ s'.runsAlike r t' := by
  induction hpath generalizing s t with
  | nil => exact .inr ⟨s, t, rfl, rfl, h⟩
  | cons stage path ih =>
    rcases stage.endAlike h hs ht with ⟨e, hse, hte⟩ | ⟨s', t', hso, hto, h'⟩
    · exact .inl ⟨e, s, t, by simp only [performStages, hse], by simp only [performStages, hte]⟩
    · simp only [performStages, hso, hto]
      exact ih { h' with } (stage.keeps coreKeeps_canonical hs hso) (stage.keeps coreKeeps_canonical ht hto)

end

end Sys2Proof.Machine

namespace Sys2Proof.Proofs

open Sys2Proof Sys2Proof.Machine

/-- Settles O51: RUN is accepted in both states, and its stages end with the same error or with the same payload. -/
theorem sameInputSamePayload : Obligations.SameInputSamePayload := by
  intro s t hbs hbt hps hpt hs ht hcfg hmode hinput
  have h : s.runsAlike Operation.run.need t :=
    { cfg := hcfg.symm, padMode := hmode.symm, input := hinput.symm
      table := fun hne => absurd rfl hne, nodes := nofun, codes := nofun, payload := nofun }
  refine ⟨_, _, next_guardedWrite_of_not_busy hbs, next_guardedWrite_of_not_busy hbt, ?_⟩
  rw [coreStep_requestOperation hps, coreStep_requestOperation hpt]
  rcases Operation.run.path.runsAlike h ((memoriesCanonical_iff s).1 hs) ((memoriesCanonical_iff t).1 ht) with
    ⟨e, s', t', hse, hte⟩ | ⟨s', t', hso, hto, h'⟩
  · rw [hse, hte]
    exact ⟨rfl, rfl, rfl, rfl, fun _ => rfl⟩
  · rw [hso, hto]
    exact ⟨rfl, rfl, h'.outLen.symm, (h'.payload rfl).symm, nofun⟩

/-- Settles O10: the step is `State.hardwareReset`, whatever stands in the state it resets. -/
theorem hardwareResetFromEveryState : Obligations.HardwareResetFromEveryState := by
  intro s rest hinbox
  refine ⟨State.hardwareReset { s with inbox := rest }, step_of_inbox_cons hinbox, ?_⟩
  simp [State.busy, State.irq]

end Sys2Proof.Proofs
end
